-- ==== Sys2Proof/Word.lean ====
section
/-! DEFINITION. The word types of the FXU: the command word and the register numbers it carries
(spec/30_encoding.md R55, R56; spec/10_state.md R20). The value registers have a width of their own, which the
configuration fixes: see Config.lean. -/

namespace Sys2Proof

/-- A command word: exactly 16 bits, bit 15 the most significant (R55, R56). -/
abbrev CmdWord := BitVec 16

/-- The number of a value register: there are NREG = 16 of them, `x0` to `x15`, and every value of a 4-bit register field
names one (R8, R20, R42, R59). -/
abbrev RegNum := Fin 16

end Sys2Proof
end

