-- ==== Sys2Proof/Config.lean ====
section
/-! DEFINITION. What is fixed when the FXU is elaborated: the width table, the configuration (W, F) as a type that
holds legal pairs only, and the constants derived from it (spec/00_scope.md R5 to R9, spec/44_saturate.md R120).
The spec leaves nothing to chance after reset (R14 item 6), so this file holds no free value. -/

namespace Sys2Proof

/-- The four supported register widths, a closed table (R6, R120). -/
inductive Width where
  | w8
  | w16
  | w32
  | w64
  deriving DecidableEq, Repr

/-- The width in bits. -/
def Width.bits : Width → Nat
  | .w8 => 8
  | .w16 => 16
  | .w32 => 32
  | .w64 => 64

/-- The table's "next wider" column (R120): 64 has no wider partner. -/
def Width.wider : Width → Option Width
  | .w8 => some .w16
  | .w16 => some .w32
  | .w32 => some .w64
  | .w64 => none

/-- The table's "next narrower" column (R120): 8 has no narrower partner. No command uses it. -/
def Width.narrower : Width → Option Width
  | .w8 => none
  | .w16 => some .w8
  | .w32 => some .w16
  | .w64 => some .w32

/-- The width of the data-in bus, `DW` of R7: twice the register width, which is the next wider width of the table,
and at the top of the table the register width itself (R121). -/
def Width.dataBits (w : Width) : Nat :=
  match w.wider with
  | some u => u.bits
  | none => w.bits

/-- The width of the table with that many bits, if there is one. -/
def Width.ofBits? (n : Int) : Option Width :=
  if n = 8 then some .w8
  else if n = 16 then some .w16
  else if n = 32 then some .w32
  else if n = 64 then some .w64
  else none

/-- A legal configuration (R5, R6): a width of the table and a number of fraction bits `0 <= F <= W - 1`. The bound is
part of the type, so that no step ever meets an illegal pair (R9). -/
structure Config where
  width : Width
  frac : Fin width.bits
  deriving DecidableEq, Repr

namespace Config

/-- `W`, the width in bits of every value register (R5). -/
abbrev W (c : Config) : Nat := c.width.bits

/-- `F`, the number of low-order bits read as the fraction (R5). -/
abbrev F (c : Config) : Nat := c.frac.val

/-- `I = W - 1 - F`, the number of integer bits (R5, R7). -/
def I (c : Config) : Nat := c.W - 1 - c.F

/-- `DW`, the width of the data-in bus (R7). -/
abbrev DW (c : Config) : Nat := c.width.dataBits

/-- `CVT_MASK = 2^I - 1` (R7). -/
def cvtMask (c : Config) : Nat := 2 ^ c.I - 1

/-- `INTEGER_MASK = bits_W((2^I - 1) * 2^F)` (R7). No command reads it. -/
def integerMask (c : Config) : BitVec c.W := BitVec.ofNat c.W ((2 ^ c.I - 1) * 2 ^ c.F)

/-- `MAX_RAW = 2^(W-1) - 1` (R7). -/
def maxRaw (c : Config) : Int := 2 ^ (c.W - 1) - 1

/-- `MIN_RAW = -2^(W-1)` (R7). -/
def minRaw (c : Config) : Int := -2 ^ (c.W - 1)

/-- The named configuration FX_HP: W = 32, F = 30 (R8). -/
def fxHP : Config := ⟨.w32, ⟨30, by decide⟩⟩

/-- The named configuration FX_GP: W = 32, F = 26 (R8). -/
def fxGP : Config := ⟨.w32, ⟨26, by decide⟩⟩

/-- The configuration of `State.reset`. DESIGN CHOICE (log entry 1): W and F are open parameters of the spec; the
state after reset of every other legal configuration is `Machine.State.resetAt`. Unsafe only for a claim that is made
about `State.reset` alone. -/
def elaborated : Config := fxGP

end Config

/-- Why a pair (W, F) is refused when the hardware is built (R9). -/
inductive ConfigError where
  /-- W is none of 8, 16, 32, 64. -/
  | widthOutsideTable
  /-- F is below 0 or above W - 1. -/
  | fractionOutsideRange
  deriving DecidableEq, Repr

/-- Elaboration (R9): a legal pair gives its configuration, every other pair is refused at build time. -/
def Config.elaborate (w f : Int) : Except ConfigError Config :=
  match Width.ofBits? w with
  | none => .error .widthOutsideTable
  | some u =>
    if h : 0 ≤ f ∧ f ≤ (u.bits : Int) - 1 then .ok ⟨u, ⟨f.toNat, by omega⟩⟩
    else .error .fractionOutsideRange

end Sys2Proof
end

