-- ==== Sys2Proof/Syntax.lean ====
section
/-! DEFINITION. The commands of FXU-CMD version 1 as syntax, one constructor per row of the opcode table
(spec/30_encoding.md R57, R60), and the assembler's line (R68). An immediate operand does not sit in the command word: it
comes on the data-in bus beside it (R55, R58), so no constructor carries one. -/

namespace Sys2Proof

/-- The twelve commands (R60). The operands are the register fields the command's format uses (R57), in the order
destination, first source, second source. -/
inductive Instr where
  /-- `ZERO xd` (R75). -/
  | zero (d : RegNum)
  /-- `LDR xd, #r` (R76). -/
  | ldr (d : RegNum)
  /-- `CVT xd, #n` (R77). -/
  | cvt (d : RegNum)
  /-- `RD xa` (R79). -/
  | rd (a : RegNum)
  /-- `EQ xa, xb` (R90). -/
  | eq (a b : RegNum)
  /-- `ADD xd, xa, xb` (R96). -/
  | add (d a b : RegNum)
  /-- `SUB xd, xa, xb` (R97). -/
  | sub (d a b : RegNum)
  /-- `MULS xd, xa, xb` (R107). -/
  | muls (d a b : RegNum)
  /-- `MULW xd, xa, xb` (R108). -/
  | mulw (d a b : RegNum)
  /-- `SAT xd, #z` (R123). -/
  | sat (d : RegNum)
  /-- `MAXV xd` (R80). -/
  | maxv (d : RegNum)
  /-- `MINV xd` (R81). -/
  | minv (d : RegNum)
  deriving DecidableEq, Repr

/-- The four formats of a command word (R57). -/
inductive Format where
  | r3
  | d
  | a
  | c
  deriving DecidableEq, Repr

/-- The format column of R57. -/
def Instr.format : Instr → Format
  | .zero _ => .d
  | .ldr _ => .d
  | .cvt _ => .d
  | .rd _ => .a
  | .eq _ _ => .c
  | .add _ _ _ => .r3
  | .sub _ _ _ => .r3
  | .muls _ _ _ => .r3
  | .mulw _ _ _ => .r3
  | .sat _ => .d
  | .maxv _ => .d
  | .minv _ => .d

/-- The register a command writes when it executes (the "writes" column of R23); RD and EQ write none. -/
def Instr.dest : Instr → Option RegNum
  | .zero d => some d
  | .ldr d => some d
  | .cvt d => some d
  | .rd _ => none
  | .eq _ _ => none
  | .add d _ _ => some d
  | .sub d _ _ => some d
  | .muls d _ _ => some d
  | .mulw d _ _ => some d
  | .sat d => some d
  | .maxv d => some d
  | .minv d => some d

/-- The commands that take an immediate operand from the data-in bus (R58). -/
def Instr.usesDin : Instr → Bool
  | .zero _ => false
  | .ldr _ => true
  | .cvt _ => true
  | .rd _ => false
  | .eq _ _ => false
  | .add _ _ _ => false
  | .sub _ _ _ => false
  | .muls _ _ _ => false
  | .mulw _ _ _ => false
  | .sat _ => true
  | .maxv _ => false
  | .minv _ => false

/-- The commands that need an intermediate wider than a register (R65, R121). -/
def Instr.needsWider : Instr → Bool
  | .zero _ => false
  | .ldr _ => false
  | .cvt _ => false
  | .rd _ => false
  | .eq _ _ => false
  | .add _ _ _ => false
  | .sub _ _ _ => false
  | .muls _ _ _ => true
  | .mulw _ _ _ => true
  | .sat _ => true
  | .maxv _ => false
  | .minv _ => false

/-- One line of assembly (R68): a command and the number written after `#`, if any. DESIGN CHOICE (log entry 11): a bit
vector written in hexadecimal stands for its unsigned value; the spec says what it means for LDR, and leaves open how CVT and
SAT read it. -/
structure Line where
  instr : Instr
  imm : Option Int
  deriving DecidableEq, Repr

end Sys2Proof
end

