-- ==== Sys2Proof/WellFormed.lean ====
section
/-! DEFINITION. What makes a command usable in a configuration and an assembly line well formed. Every term of `Instr` is a
command: its register numbers are 0 to 15 by type (spec/20_memory.md R42, spec/30_encoding.md R59). What can be wrong is the
immediate of an assembly line (R68) and the availability of a command at W = 64 (R65). -/

namespace Sys2Proof

/-- A command is executed at every width, but for MULS, MULW and SAT at W = 64, which raise UnsupportedOp (R65). -/
def Instr.available (c : Config) (i : Instr) : Bool :=
  !i.needsWider || decide (c.W ≠ 64)

/-- `z` is the value of a signed vector of `n` bits. -/
def fitsSigned (n : Nat) (z : Int) : Bool :=
  decide (-(2 : Int) ^ (n - 1) ≤ z) && decide (z ≤ 2 ^ (n - 1) - 1)

/-- The immediate a line must have (R68): LDR any number (it is reduced to W bits), CVT one in the signed range of W bits,
SAT one in the signed range of the data-in bus, every other command none. DEDUCED (log entry 6): at W = 64, where SAT is
refused whatever its operand, the bus has 64 bits and not 2W. -/
def Line.wellFormed (c : Config) (l : Line) : Bool :=
  match l.instr with
  | .zero _ => l.imm.isNone
  | .ldr _ => l.imm.isSome
  | .cvt _ => l.imm.any (fitsSigned c.W)
  | .rd _ => l.imm.isNone
  | .eq _ _ => l.imm.isNone
  | .add _ _ _ => l.imm.isNone
  | .sub _ _ _ => l.imm.isNone
  | .muls _ _ _ => l.imm.isNone
  | .mulw _ _ _ => l.imm.isNone
  | .sat _ => l.imm.any (fitsSigned c.DW)
  | .maxv _ => l.imm.isNone
  | .minv _ => l.imm.isNone

end Sys2Proof
end

