-- ==== Sys2Proof/Decode.lean ====
section
/-! DEFINITION. Decoding a command word (spec/30_encoding.md R56, R57, R60, R62, R63), the encoder, the match and mask
table of R61 and the assembler of R68. Decoding reads 16 bits and depends on nothing else: not on W, not on F, not on the
data-in bus (R65, R66). -/

namespace Sys2Proof

/-- Why a word selects no command (R63). -/
inductive Reserved where
  /-- The opcode is 0x0, 0xD, 0xE or 0xF (R63 case a). -/
  | opcode (op : Fin 16)
  /-- The opcode is assigned, but a field its format does not use is not zero (R62; R63 cases b, c, d). -/
  | mustBeZero (op : Fin 16)
  deriving DecidableEq, Repr

/-- `op = cmd[15:12]` (R56). -/
def opField (w : CmdWord) : Fin 16 := (w.extractLsb 15 12).toFin

/-- `d = cmd[11:8]` (R56). -/
def dField (w : CmdWord) : RegNum := (w.extractLsb 11 8).toFin

/-- `a = cmd[7:4]` (R56). -/
def aField (w : CmdWord) : RegNum := (w.extractLsb 7 4).toFin

/-- `b = cmd[3:0]` (R56). -/
def bField (w : CmdWord) : RegNum := (w.extractLsb 3 0).toFin

/-- Format R3: all three register fields are used (R57). -/
def decodeR3 (k : RegNum → RegNum → RegNum → Instr) (w : CmdWord) : Except Reserved Instr :=
  .ok (k (dField w) (aField w) (bField w))

/-- Format D: the fields `a` and `b` must be zero (R57, R62). -/
def decodeD (k : RegNum → Instr) (w : CmdWord) : Except Reserved Instr :=
  if aField w = 0 ∧ bField w = 0 then .ok (k (dField w)) else .error (.mustBeZero (opField w))

/-- Format A: the fields `d` and `b` must be zero (R57, R62). -/
def decodeA (k : RegNum → Instr) (w : CmdWord) : Except Reserved Instr :=
  if dField w = 0 ∧ bField w = 0 then .ok (k (aField w)) else .error (.mustBeZero (opField w))

/-- Format C: the field `d` must be zero (R57, R62). -/
def decodeC (k : RegNum → RegNum → Instr) (w : CmdWord) : Except Reserved Instr :=
  if dField w = 0 then .ok (k (aField w) (bField w)) else .error (.mustBeZero (opField w))

/-- The command a word selects, or why it is reserved (R60, R63). Total on every word. -/
def decode (w : CmdWord) : Except Reserved Instr :=
  match opField w with
  | 0x1 => decodeD .zero w
  | 0x2 => decodeD .ldr w
  | 0x3 => decodeD .cvt w
  | 0x4 => decodeA .rd w
  | 0x5 => decodeC .eq w
  | 0x6 => decodeR3 .add w
  | 0x7 => decodeR3 .sub w
  | 0x8 => decodeR3 .muls w
  | 0x9 => decodeR3 .mulw w
  | 0xA => decodeD .sat w
  | 0xB => decodeD .maxv w
  | 0xC => decodeD .minv w
  | op => .error (.opcode op)

/-- The word with these four fields (R56). -/
def packWord (op : Fin 16) (d a b : RegNum) : CmdWord :=
  BitVec.ofNat 16 (op.val * 2 ^ 12 + d.val * 2 ^ 8 + a.val * 2 ^ 4 + b.val)

/-- The word of a command, from the pattern column of R61. -/
def encode : Instr → CmdWord
  | .zero d => packWord 0x1 d 0 0
  | .ldr d => packWord 0x2 d 0 0
  | .cvt d => packWord 0x3 d 0 0
  | .rd a => packWord 0x4 0 a 0
  | .eq a b => packWord 0x5 0 a b
  | .add d a b => packWord 0x6 d a b
  | .sub d a b => packWord 0x7 d a b
  | .muls d a b => packWord 0x8 d a b
  | .mulw d a b => packWord 0x9 d a b
  | .sat d => packWord 0xA d 0 0
  | .maxv d => packWord 0xB d 0 0
  | .minv d => packWord 0xC d 0 0

/-- The mask column of R61. The decoder does not use it: that the two agree is a claim. -/
def Instr.mask : Instr → CmdWord
  | .zero _ => 0xF0FF
  | .ldr _ => 0xF0FF
  | .cvt _ => 0xF0FF
  | .rd _ => 0xFF0F
  | .eq _ _ => 0xFF00
  | .add _ _ _ => 0xF000
  | .sub _ _ _ => 0xF000
  | .muls _ _ _ => 0xF000
  | .mulw _ _ _ => 0xF000
  | .sat _ => 0xF0FF
  | .maxv _ => 0xF0FF
  | .minv _ => 0xF0FF

/-- The match column of R61. -/
def Instr.matchWord : Instr → CmdWord
  | .zero _ => 0x1000
  | .ldr _ => 0x2000
  | .cvt _ => 0x3000
  | .rd _ => 0x4000
  | .eq _ _ => 0x5000
  | .add _ _ _ => 0x6000
  | .sub _ _ _ => 0x7000
  | .muls _ _ _ => 0x8000
  | .mulw _ _ _ => 0x9000
  | .sat _ => 0xA000
  | .maxv _ => 0xB000
  | .minv _ => 0xC000

/-- What the decoder reads from a word numbered as the opcode table numbers it: every row has 16 bits and there is no
second word (R55), and the bits above `nbits` are zero. -/
def decodeTableWord (nbits w : Nat) : Option Instr :=
  (decode (BitVec.ofNat 16 (w % 2 ^ nbits))).toOption

/-- The data-in bus the assembler drives for a line (R68): the immediate reduced to W bits with zeros above it for LDR and
CVT, the immediate on the whole bus for SAT, zeros for every other command. -/
def assembleDin (c : Config) (l : Line) : BitVec c.DW :=
  match l.instr with
  | .zero _ => 0
  | .ldr _ => (BitVec.ofInt c.W (l.imm.getD 0)).setWidth c.DW
  | .cvt _ => (BitVec.ofInt c.W (l.imm.getD 0)).setWidth c.DW
  | .rd _ => 0
  | .eq _ _ => 0
  | .add _ _ _ => 0
  | .sub _ _ _ => 0
  | .muls _ _ _ => 0
  | .mulw _ _ _ => 0
  | .sat _ => BitVec.ofInt c.DW (l.imm.getD 0)
  | .maxv _ => 0
  | .minv _ => 0

/-- The assembler (R68): one command word and one value of the data-in bus for each well-formed line, nothing for an
ill-formed one. There are no pseudo-instructions. -/
def assemble (c : Config) (l : Line) : Option (CmdWord × BitVec c.DW) :=
  if l.wellFormed c then some (encode l.instr, assembleDin c l) else none

end Sys2Proof
end

