-- ==== Sys2Proof/Machine/State.lean ====
section
/-! DEFINITION. The state of the FXU, its ports, and the state after reset (spec/10_state.md R20 to R33). The architectural
state is the register file `x` and nothing else (R33). The other fields are the model's own: the configuration, which no
step changes; the ports; what the host is going to drive; and what the FXU has answered. -/

namespace Sys2Proof.Machine

/-- The content of a value register: W bits, every pattern legal (R20, R21). -/
abbrev Value (c : Config) := BitVec c.W

/-- The register file `x0` to `x15` (R20). -/
abbrev Regs (c : Config) := Vector (Value c) 16

/-- The input ports in one clock cycle (R30), less the clock. -/
structure PortIn (c : Config) where
  /-- Synchronous reset, active high. -/
  rst : Bool
  /-- 1 when the host presents a command. -/
  cmdValid : Bool
  /-- The command word. -/
  cmd : CmdWord
  /-- The data-in bus, DW bits. -/
  din : BitVec c.DW
  deriving DecidableEq, Repr

/-- The output ports in one clock cycle (R30). -/
structure PortOut (c : Config) where
  rspValid : Bool
  rspStatus : BitVec 2
  rspData : Value c
  deriving DecidableEq, Repr

/-- The response status (R132). The code 3 is never produced, so it has no constructor. -/
inductive Status where
  /-- Code 0: the command executed. -/
  | ok
  /-- Code 1: IllegalCommand (R130). -/
  | illegalCmd
  /-- Code 2: UnsupportedOp (R131). -/
  | unsupportedOp
  deriving DecidableEq, Repr

/-- The response to one command (R12, R13). -/
structure Response (c : Config) where
  status : Status
  data : Value c
  deriving DecidableEq, Repr

/-- The output ports when no response is given: all zero (R30, R32). -/
def PortOut.quiet (c : Config) : PortOut c := ⟨false, 0, 0⟩

/-- The input ports when the host drives nothing. -/
def PortIn.idle (c : Config) : PortIn c := ⟨false, false, 0, 0⟩

/-- The input ports of a cycle in which the host presents a command (R159). -/
def PortIn.command (c : Config) (cmd : CmdWord) (din : BitVec c.DW) : PortIn c := ⟨false, true, cmd, din⟩

/-- The two exceptions (R130, R131). An exception is no stop: its effect is a response, and the FXU goes on (R138). -/
inductive Exception where
  | illegalCommand
  | unsupportedOp
  deriving DecidableEq, Repr

structure State where
  /-- The configuration (W, F) the hardware was elaborated for. The model's own field: configuration, not state (R5). -/
  cfg : Config
  /-- The sixteen value registers, the complete architectural state (R33). -/
  x : Regs cfg
  /-- The input ports in the current cycle. The model's own field: inputs of the step (R14 item 2). -/
  inp : PortIn cfg
  /-- The output ports in the current cycle. The model's own field: outputs of the step. -/
  out : PortOut cfg
  /-- What the host drives in the cycles to come, soonest first (R24, R159). The model's own field. -/
  stream : List (PortIn cfg)
  /-- The responses given so far, oldest first (R165). The model's own field. -/
  responses : List (Response cfg)
  deriving DecidableEq, Repr

/-- There is no fault. No event stops the FXU: both exceptions of the spec are answered in the response and the unit takes
the next command (R137, R138), and no arithmetic event is an exception (R133). -/
inductive Fault where
  deriving DecidableEq, Repr

/-- Why a step is refused. -/
inductive Refusal where
  /-- An instruction without a meaning in this model. Raised by `exec` alone, and by no arm of it now. Safe. -/
  | notModelled (mnemonic : String)
  /-- The host presents no further command: the run has ended (R165). Raised by `step`. Safe: the hardware does nothing
  then either (R164). -/
  | endOfRun
  deriving DecidableEq, Repr

/-- Every register all zeros (R31, R155). -/
def Regs.zero (c : Config) : Regs c := Vector.replicate 16 0

/-- The state after reset in a configuration: every register zero (R31), the output ports as R32 says, no command
presented yet and none answered. -/
def State.resetAt (c : Config) : State where
  cfg := c
  x := Regs.zero c
  inp := PortIn.idle c
  out := PortOut.quiet c
  stream := []
  responses := []

/-- The machine right after reset, in the configuration log entry 1 names. -/
def State.reset : State := State.resetAt Config.elaborated

end Sys2Proof.Machine
end

