-- ==== Sys2Proof/Machine/Flags.lean ====
section
/-! DEFINITION. The FXU has no flags (spec/10_state.md R25): no command records overflow, carry, sign, zero or saturation
anywhere. What a command reports is its response: this file holds the status codes and how a response shows on the output
ports (spec/60_exceptions.md R132, spec/10_state.md R30). -/

namespace Sys2Proof.Machine

/-- `rsp_status[1:0]` (R132). -/
def Status.code : Status → BitVec 2
  | .ok => 0
  | .illegalCmd => 1
  | .unsupportedOp => 2

/-- The status that reports an exception (R130, R131). Its code is the exception's cause code. -/
def Exception.status : Exception → Status
  | .illegalCommand => .illegalCmd
  | .unsupportedOp => .unsupportedOp

/-- The response of a command that raises: the status and all zeros (R130, R131, R132). -/
def Exception.response (c : Config) (e : Exception) : Response c := ⟨e.status, 0⟩

/-- The response of a command that executes (R132). -/
def Response.ok {c : Config} (v : Value c) : Response c := ⟨.ok, v⟩

/-- The output ports in the cycle of a response (R30, R163). -/
def Response.ports {c : Config} (r : Response c) : PortOut c := ⟨true, r.status.code, r.data⟩

end Sys2Proof.Machine
end

