-- ==== Sys2Proof/Machine/Operands.lean ====
section
/-! DEFINITION. The conversions of spec/00_scope.md R11 and the immediate operands of spec/30_encoding.md R58. -/

namespace Sys2Proof.Machine

/-- `uval_N(b)`, the unsigned value (R11). -/
def uval {n : Nat} (b : BitVec n) : Nat := b.toNat

/-- `sval_N(b)`, the signed two's-complement value (R11). -/
def sval {n : Nat} (b : BitVec n) : Int := b.toInt

/-- `bits_N(z)`, the vector whose unsigned value is `z mod 2^N` (R11). -/
def bits (n : Nat) (z : Int) : BitVec n := BitVec.ofInt n z

/-- `asr(z, k) = floor(z / 2^k)` (R11): for a positive divisor `/` on Int is the floor. -/
def asr (z : Int) (k : Nat) : Int := z / 2 ^ k

/-- `din[W-1:0]`, the operand of LDR and CVT; the bits above are ignored (R43, R58). -/
def dinLow (s : State) : Value s.cfg := s.inp.din.setWidth s.cfg.W

/-- `sval_2W(din[2W-1:0])`, the operand of SAT: the whole bus (R58). It is used at W = 8, 16, 32 only. -/
def dinWide (s : State) : Int := sval s.inp.din

end Sys2Proof.Machine
end

