-- ==== Sys2Proof/Machine/Ops.lean ====
section
/-! DEFINITION. The operations every command is made of: reading and writing a register, giving a response, raising an
exception, and what a clock edge without a command does. -/

namespace Sys2Proof.Machine

/-- `x[i]` (R12, R59). No register is hardwired (R22). Reading has no side effect (R44). -/
def State.reg (s : State) (i : RegNum) : Value s.cfg := s.x[i]

/-- `x[i] <- v`: all W bits are written (R12, R43). -/
def State.setReg (s : State) (i : RegNum) (v : Value s.cfg) : State := { s with x := s.x.set i v }

/-- `rsp <- r`: the response shows on the output ports and joins the run's list of responses (R12, R163, R165). -/
def State.respond (s : State) (r : Response s.cfg) : State :=
  { s with out := r.ports, responses := s.responses ++ [r] }

/-- The end of a command that writes: `x[d] <- v` and `rsp <- (0, v)`. The value is computed from the registers as they
are before the write (R161, R163). -/
def complete (s : State) (d : RegNum) (v : Value s.cfg) : Host.Outcome State Fault Refusal :=
  .next ((s.setReg d v).respond (Response.ok v))

/-- The end of a command that writes no register: `rsp <- (0, v)` (RD, EQ). -/
def answer (s : State) (v : Value s.cfg) : Host.Outcome State Fault Refusal :=
  .next (s.respond (Response.ok v))

/-- `raise e` (R12, R130, R131): no register is written and the response reports the exception. That is its whole effect:
nothing is saved, no mode changes, control goes nowhere (R134, R137). There is no return from it: the FXU accepts the next
command as if nothing had happened (R138). -/
def raise (s : State) (e : Exception) : Host.Outcome State Fault Refusal :=
  .next (s.respond (e.response s.cfg))

/-- `if W = 64 then raise UnsupportedOp`, before anything else of MULS, MULW and SAT (R107, R108, R121, R123). -/
def withWider (s : State) (k : Host.Outcome State Fault Refusal) : Host.Outcome State Fault Refusal :=
  if s.cfg.W = 64 then raise s .unsupportedOp else k

/-- `clamp_N(z)` (R122): the comparisons are made on the wide value, before any narrowing. -/
def clamp (n : Nat) (z : Int) : Int :=
  if z > 2 ^ (n - 1) - 1 then 2 ^ (n - 1) - 1
  else if z < -2 ^ (n - 1) then -2 ^ (n - 1)
  else z

/-- `Q = floor(A * B / 2^F)` (R106): the exact signed product of two registers, shifted right arithmetically by F. -/
def scaledProduct (s : State) (a b : RegNum) : Int :=
  asr (sval (s.reg a) * sval (s.reg b)) s.cfg.F

/-- A rising edge with `rst = 1`: every register becomes zero, no response is given, whatever `cmd_valid`, `cmd` and `din`
are (R155, R156). -/
def State.resetEdge (s : State) : State := { s with x := Regs.zero s.cfg, out := PortOut.quiet s.cfg }

/-- A rising edge with `rst = 0` and `cmd_valid = 0`: nothing changes and no response is given (R30). -/
def State.idleEdge (s : State) : State := { s with out := PortOut.quiet s.cfg }

/-- The registers, the ports and the cycles after it at the next cycle in which the FXU accepts a command, none if the host
presents no further command. Idle cycles get no step of their own (R164) and change nothing. A cycle with `rst = 1` on the way
clears the registers, and a command presented in it is lost (R156). -/
def nextCommand {c : Config} : Regs c → List (PortIn c) → Option (Regs c × PortIn c × List (PortIn c))
  | _, [] => none
  | x, p :: rest =>
    if p.rst then nextCommand (Regs.zero c) rest
    else if p.cmdValid then some (x, p, rest)
    else nextCommand x rest

/-- The state in the cycle `nextCommand` found: the registers as they are then, the cycle on the input ports, the rest of
what the host drives still to come. -/
def State.present (s : State) (n : Regs s.cfg × PortIn s.cfg × List (PortIn s.cfg)) : State :=
  { s with x := n.1, inp := n.2.1, stream := n.2.2 }

end Sys2Proof.Machine
end

