-- ==== Sys2Proof/Machine/AddSub.lean ====
section
/-! DEFINITION. Wrapping addition and subtraction: ADD, SUB (spec/42_add_sub.md R95 to R97). F plays no part in either. -/

namespace Sys2Proof.Machine

/-- ADD: the sum of the unsigned readings modulo 2^W (R96). -/
def execAdd (d a b : RegNum) (s : State) : Host.Outcome State Fault Refusal :=
  complete s d (bits s.cfg.W (uval (s.reg a) + uval (s.reg b)))

/-- SUB: the difference of the unsigned readings modulo 2^W (R97). -/
def execSub (d a b : RegNum) (s : State) : Host.Outcome State Fault Refusal :=
  complete s d (bits s.cfg.W (uval (s.reg a) - uval (s.reg b)))

end Sys2Proof.Machine
end

