-- ==== Sys2Proof/Machine/Compare.lean ====
section
/-! DEFINITION. Comparison: EQ (spec/41_compare.md R90). -/

namespace Sys2Proof.Machine

/-- EQ: 1 on the response data when the two registers hold the same W bits, else 0; no register is written (R90). -/
def execEq (a b : RegNum) (s : State) : Host.Outcome State Fault Refusal :=
  answer s (bits s.cfg.W (if s.reg a = s.reg b then 1 else 0))

end Sys2Proof.Machine
end

