-- ==== Sys2Proof/Machine/Construct.lean ====
section
/-! DEFINITION. Construction and raw access: ZERO, LDR, CVT, RD, MAXV, MINV (spec/40_construct_access.md R75 to R81). -/

namespace Sys2Proof.Machine

/-- ZERO, default construction (R75). -/
def execZero (d : RegNum) (s : State) : Host.Outcome State Fault Refusal :=
  complete s d (bits s.cfg.W 0)

/-- LDR, construction from a raw bit pattern: stored verbatim (R76). -/
def execLdr (d : RegNum) (s : State) : Host.Outcome State Fault Refusal :=
  complete s d (dinLow s)

/-- The value CVT constructs from the pattern `p` (R77): the low I bits of the pattern as given, placed at bit F, and the
result negated when the input was negative. The mask is applied to the two's-complement pattern and not to the magnitude;
that reading is the spec's own decision (D11). -/
def cvtValue (c : Config) (p : Value c) : Value c :=
  let m := uval p % 2 ^ c.I
  let r : Int := (m * 2 ^ c.F : Nat)
  bits c.W (if sval p < 0 then -r else r)

/-- CVT, construction from an integer, truncating (R77). -/
def execCvt (d : RegNum) (s : State) : Host.Outcome State Fault Refusal :=
  complete s d (cvtValue s.cfg (dinLow s))

/-- RD, raw read (R79). -/
def execRd (a : RegNum) (s : State) : Host.Outcome State Fault Refusal :=
  answer s (s.reg a)

/-- MAXV, the register's greatest raw value (R80). -/
def execMaxv (d : RegNum) (s : State) : Host.Outcome State Fault Refusal :=
  complete s d (bits s.cfg.W (2 ^ (s.cfg.W - 1) - 1))

/-- MINV, the register's least raw value (R81). -/
def execMinv (d : RegNum) (s : State) : Host.Outcome State Fault Refusal :=
  complete s d (bits s.cfg.W (-2 ^ (s.cfg.W - 1)))

end Sys2Proof.Machine
end

