-- ==== Sys2Proof/Machine/Multiply.lean ====
section
/-! DEFINITION. Multiplication under its two policies: MULS, MULW (spec/43_multiply.md R105 to R108, R111). -/

namespace Sys2Proof.Machine

/-- MULS: the scaled product clamped to the register's range; UnsupportedOp at W = 64 (R107, R111). -/
def execMuls (d a b : RegNum) (s : State) : Host.Outcome State Fault Refusal :=
  withWider s (complete s d (bits s.cfg.W (clamp s.cfg.W (scaledProduct s a b))))

/-- MULW: the low W bits of the scaled product; UnsupportedOp at W = 64 (R108, R111). -/
def execMulw (d a b : RegNum) (s : State) : Host.Outcome State Fault Refusal :=
  withWider s (complete s d (bits s.cfg.W (scaledProduct s a b)))

end Sys2Proof.Machine
end

