-- ==== Sys2Proof/Machine/Saturate.lean ====
section
/-! DEFINITION. Saturation of a double-width integer: SAT (spec/44_saturate.md R121 to R123). -/

namespace Sys2Proof.Machine

/-- SAT: the whole data-in bus, clamped to the register's range; UnsupportedOp at W = 64 (R123). -/
def execSat (d : RegNum) (s : State) : Host.Outcome State Fault Refusal :=
  withWider s (complete s d (bits s.cfg.W (clamp s.cfg.W (dinWide s))))

end Sys2Proof.Machine
end

