-- ==== Sys2Proof/Machine/Dispatch.lean ====
section
/-! DEFINITION. The meaning of every command, one arm per row of the opcode table (spec/30_encoding.md R60). -/

namespace Sys2Proof.Machine

/-- What a decoded command does to the state (R60). -/
def exec (i : Instr) (s : State) : Host.Outcome State Fault Refusal :=
  match i with
  | .zero d => Sys2Proof.Machine.execZero d s
  | .ldr d => Sys2Proof.Machine.execLdr d s
  | .cvt d => Sys2Proof.Machine.execCvt d s
  | .rd a => Sys2Proof.Machine.execRd a s
  | .eq a b => Sys2Proof.Machine.execEq a b s
  | .add d a b => Sys2Proof.Machine.execAdd d a b s
  | .sub d a b => Sys2Proof.Machine.execSub d a b s
  | .muls d a b => Sys2Proof.Machine.execMuls d a b s
  | .mulw d a b => Sys2Proof.Machine.execMulw d a b s
  | .sat d => Sys2Proof.Machine.execSat d s
  | .maxv d => Sys2Proof.Machine.execMaxv d s
  | .minv d => Sys2Proof.Machine.execMinv d s

end Sys2Proof.Machine
end

