-- ==== Sys2Proof/Machine/Step.lean ====
section
/-! DEFINITION. A clock edge, one step of the FXU, and placing a command where the next step takes it
(spec/10_state.md R24, R30; spec/70_reset_and_hazards.md R155, R156, R159, R164, R165). -/

namespace Sys2Proof.Machine

/-- The command on the ports: decoding comes first, so a reserved word raises IllegalCommand before the width is looked at
(R130, R136); a word that decodes is executed. -/
def runCommand (s : State) : Host.Outcome State Fault Refusal :=
  match decode s.inp.cmd with
  | .ok i => exec i s
  | .error _ => raise s .illegalCommand

/-- One rising edge of the clock with the input ports as they are in the state (R30, R159): reset takes precedence over
everything (R156), then a presented command, and without either nothing changes. -/
def clockEdge (s : State) : Host.Outcome State Fault Refusal :=
  if s.inp.rst then .next s.resetEdge
  else if s.inp.cmdValid then runCommand s
  else .next s.idleEdge

/-- One step: the next accepted command the host drives, and the edge that closes its cycle (R30, R164). Without a further
command the run has ended (R165). -/
def step (s : State) : Host.Outcome State Fault Refusal :=
  (nextCommand s.x s.stream).elim (.refused .endOfRun) fun n => clockEdge (s.present n)

/-- The state with a command presented in the very next cycle: there is no program memory, so a program is what the host
drives (R24). The word's bits above `nbits` are zero and so is the data-in bus (log entry 4). -/
def State.withFetchWord (s : State) (nbits w : Nat) : State :=
  { s with stream := PortIn.command s.cfg (BitVec.ofNat 16 (w % 2 ^ nbits)) 0 :: s.stream }

end Sys2Proof.Machine
end

