-- ==== Sys2Proof/Safety.lean ====
section
/-! DEFINITION. The words the claims use: what a command did to the state, which outputs are legal, and what a safe state
is. -/

namespace Sys2Proof.Machine

/-- The host presents a command in this cycle and no reset (R30): the cycle that makes one step. -/
abbrev PortIn.accepted {c : Config} (p : PortIn c) : Prop := p.rst = false ∧ p.cmdValid = true

/-- The outcome of a command that wrote the value `v` to `x[d]` and answered (OK, v): every other register, the
configuration, the input ports and what the host drives next are as before. -/
def Wrote (s : State) (d : RegNum) (v : Value s.cfg) (o : Host.Outcome State Fault Refusal) : Prop :=
  ∃ y : Regs s.cfg,
    o = .next { s with x := y, out := ⟨true, 0, v⟩, responses := s.responses ++ [⟨.ok, v⟩] } ∧
    y[d] = v ∧ ∀ r : RegNum, r ≠ d → y[r] = s.x[r]

/-- The outcome of a command that wrote no register and answered (OK, v). -/
def Answered (s : State) (v : Value s.cfg) (o : Host.Outcome State Fault Refusal) : Prop :=
  o = .next { s with out := ⟨true, 0, v⟩, responses := s.responses ++ [⟨.ok, v⟩] }

/-- The outcome of a command that raised the exception with this status and code: data zero, no register written (R130,
R131, R137). -/
def Raised (s : State) (st : Status) (code : BitVec 2) (o : Host.Outcome State Fault Refusal) : Prop :=
  o = .next { s with out := ⟨true, code, 0⟩, responses := s.responses ++ [⟨st, 0⟩] }

/-- The rational number a register's content stands for, `sval_W(b) / 2^F` (R13, R21). -/
def represents {c : Config} (v : Value c) : ℚ := (v.toInt : ℚ) / 2 ^ c.F

/-- What the output ports may show (R30, R131, R132): all zero without a response, data zero with a non-zero status, the
status 2 at W = 64 only, and never the status 3. -/
abbrev PortOut.Legal {c : Config} (o : PortOut c) : Prop :=
  (o.rspValid = false → o.rspStatus = 0 ∧ o.rspData = 0) ∧
  (o.rspStatus ≠ 0 → o.rspData = 0) ∧
  (o.rspStatus = 2 → c.W = 64) ∧
  o.rspStatus ≠ 3

/-- A safe state: the output ports and every response given so far are legal. -/
abbrev State.Safe (s : State) : Prop :=
  s.out.Legal ∧ ∀ r ∈ s.responses, r.ports.Legal

end Sys2Proof.Machine
end

