-- ==== Sys2Proof/Certificates/Slice0/Obligations.lean ====
section
/-! DEFINITION. The statements for the provers, each formalising rules of spec/ (OBLIGATIONS.json names them). Every
statement holds for every legal configuration (W, F): the configuration is a field of the state and no statement fixes it,
unless its docstring says so. In the statements a register's signed value is `toInt`, its unsigned value `toNat`, and
`bits_N(z)` is `BitVec.ofInt N z`, so that they do not lean on the model's own conversions. -/

open Sys2Proof Sys2Proof.Machine

/-! ### Encoding -/

/-- Words written out from the patterns of R61 and the table V1 of spec/95_test_vectors.md, one of each command and one of
each kind of reserved word. That those six words are reserved is the spec's (R63); the reasons the decoder names for them
are the model's choice, log entry 8. -/
def Obligations.DecodesTheWordsOfTheTable : Prop :=
  decode 0x1300 = .ok (.zero 3) ∧ decode 0x2F00 = .ok (.ldr 15) ∧ decode 0x3000 = .ok (.cvt 0) ∧
  decode 0x40A0 = .ok (.rd 10) ∧ decode 0x5045 = .ok (.eq 4 5) ∧ decode 0x6423 = .ok (.add 4 2 3) ∧
  decode 0x7FFF = .ok (.sub 15 15 15) ∧ decode 0x8201 = .ok (.muls 2 0 1) ∧ decode 0x9301 = .ok (.mulw 3 0 1) ∧
  decode 0xA000 = .ok (.sat 0) ∧ decode 0xB000 = .ok (.maxv 0) ∧ decode 0xC500 = .ok (.minv 5) ∧
  decode 0x0123 = .error (.opcode 0) ∧ decode 0xFFFF = .error (.opcode 15) ∧
  decode 0x1310 = .error (.mustBeZero 1) ∧ decode 0x4110 = .error (.mustBeZero 4) ∧
  decode 0x5201 = .error (.mustBeZero 5) ∧ decode 0xA012 = .error (.mustBeZero 10)

/-- Decoding the word of a command gives the command, for every command and every register number. -/
def Obligations.DecodeOfEncode : Prop := ∀ i : Instr, decode (encode i) = .ok i

/-- Each word has at most one reading: a word that decodes is the word of the command it decodes to. -/
def Obligations.EncodeOfDecode : Prop := ∀ (w : CmdWord) (i : Instr), decode w = .ok i → encode i = w

/-- R61: a word selects a command exactly when it matches the command's row under the row's mask, and no word matches two
rows. A row is named by its match value, which differs from row to row. -/
def Obligations.MaskAndMatchSelectTheCommand : Prop :=
  (∀ (w : CmdWord) (i : Instr), decode w = .ok i → w &&& i.mask = i.matchWord) ∧
  (∀ (w : CmdWord) (i : Instr), w &&& i.mask = i.matchWord →
    ∃ j, decode w = .ok j ∧ j.mask = i.mask ∧ j.matchWord = i.matchWord) ∧
  (∀ (w : CmdWord) (i j : Instr), w &&& i.mask = i.matchWord → w &&& j.mask = j.matchWord →
    i.matchWord = j.matchWord)

/-- R63: which words are reserved, case by case, that the all-zeros and the all-ones word are among them, and what presenting
a reserved word does. -/
def Obligations.ReservedWordsAreExactlyThese : Prop :=
  (∀ w : CmdWord, (∃ e, decode w = .error e) ↔
    (w.extractLsb 15 12 = 0x0 ∨ w.extractLsb 15 12 = 0xD ∨ w.extractLsb 15 12 = 0xE ∨ w.extractLsb 15 12 = 0xF) ∨
    ((w.extractLsb 15 12 = 0x1 ∨ w.extractLsb 15 12 = 0x2 ∨ w.extractLsb 15 12 = 0x3 ∨ w.extractLsb 15 12 = 0xA ∨
      w.extractLsb 15 12 = 0xB ∨ w.extractLsb 15 12 = 0xC) ∧ w.extractLsb 7 0 ≠ 0) ∨
    (w.extractLsb 15 12 = 0x4 ∧ (w.extractLsb 11 8 ≠ 0 ∨ w.extractLsb 3 0 ≠ 0)) ∨
    (w.extractLsb 15 12 = 0x5 ∧ w.extractLsb 11 8 ≠ 0)) ∧
  (∀ s : State, s.inp.accepted → (∃ e, decode s.inp.cmd = .error e) → Raised s .illegalCmd 1 (clockEdge s)) ∧
  (∃ e, decode 0x0000 = .error e) ∧ (∃ e, decode 0xFFFF = .error e)

/-- R63: of the 65536 words, 16752 select a command. -/
def Obligations.CountOfWordsThatSelectACommand : Prop :=
  ((List.range 65536).filter fun n => (decode (BitVec.ofNat 16 n)).toBool).length = 16752

/-- R68: which lines the assembler takes, and the word and the operand it delivers. LDR takes any number and drives it
reduced to W bits; CVT takes the signed range of W bits and SAT the signed range of the data-in bus, and both drive the number
itself; the other nine commands take no immediate and get zeros on the bus. Every other line gives nothing, and the lines that
give something are those `Line.wellFormed` accepts. That SAT takes the 64 bits of the bus at W = 64, and that LDR takes any
number, is the model's choice, log entry 6. -/
def Obligations.AssemblerDeliversTheOperand : Prop :=
  ∀ c : Config,
    (∀ d, assemble c ⟨.ldr d, none⟩ = none ∧ ∀ r, ∃ din, assemble c ⟨.ldr d, some r⟩ = some (encode (.ldr d), din) ∧
      din.toNat = (BitVec.ofInt c.W r).toNat) ∧
    (∀ d, assemble c ⟨.cvt d, none⟩ = none ∧ ∀ n,
      (-2 ^ (c.W - 1) ≤ n ∧ n ≤ 2 ^ (c.W - 1) - 1 → ∃ din, assemble c ⟨.cvt d, some n⟩ = some (encode (.cvt d), din) ∧
        (din.extractLsb' 0 c.W).toInt = n ∧ din.toNat < 2 ^ c.W) ∧
      (¬ (-2 ^ (c.W - 1) ≤ n ∧ n ≤ 2 ^ (c.W - 1) - 1) → assemble c ⟨.cvt d, some n⟩ = none)) ∧
    (∀ d, assemble c ⟨.sat d, none⟩ = none ∧ ∀ z,
      let k := if c.W = 64 then 64 else 2 * c.W
      (-2 ^ (k - 1) ≤ z ∧ z ≤ 2 ^ (k - 1) - 1 → ∃ din, assemble c ⟨.sat d, some z⟩ = some (encode (.sat d), din) ∧
        din.toInt = z) ∧
      (¬ (-2 ^ (k - 1) ≤ z ∧ z ≤ 2 ^ (k - 1) - 1) → assemble c ⟨.sat d, some z⟩ = none)) ∧
    (∀ i : Instr, (∀ d, i ≠ .ldr d) → (∀ d, i ≠ .cvt d) → (∀ d, i ≠ .sat d) →
      assemble c ⟨i, none⟩ = some (encode i, 0) ∧ ∀ m, assemble c ⟨i, some m⟩ = none) ∧
    (∀ l : Line, (assemble c l).isSome = l.wellFormed c)

/-! ### Configuration and reset -/

/-- R9 and the legal values of R6: elaboration accepts exactly the pairs with W in the table and `0 <= F <= W - 1`. -/
def Obligations.ElaborationAcceptsExactlyTheLegalPairs : Prop :=
  ∀ w f : Int,
    ((w = 8 ∨ w = 16 ∨ w = 32 ∨ w = 64) ∧ 0 ≤ f ∧ f ≤ w - 1 →
      ∃ c, Config.elaborate w f = .ok c ∧ (c.W : Int) = w ∧ (c.F : Int) = f) ∧
    (¬ ((w = 8 ∨ w = 16 ∨ w = 32 ∨ w = 64) ∧ 0 ≤ f ∧ f ≤ w - 1) → ∃ e, Config.elaborate w f = .error e)

/-- R7: the derived constants, MAX_RAW and MIN_RAW as bit patterns, INTEGER_MASK as the bits between the sign bit and the
fraction, DW as twice W below W = 64. -/
def Obligations.DerivedConstantsOfEveryConfiguration : Prop :=
  ∀ c : Config,
    c.I + c.F + 1 = c.W ∧ c.cvtMask + 1 = 2 ^ c.I ∧
    (∀ k, c.integerMask.getLsbD k = (decide (c.F ≤ k) && decide (k < c.W - 1))) ∧
    c.maxRaw = 2 ^ (c.W - 1) - 1 ∧ (∀ k, (BitVec.ofInt c.W c.maxRaw).getLsbD k = decide (k < c.W - 1)) ∧
    c.minRaw = -2 ^ (c.W - 1) ∧ (∀ k, (BitVec.ofInt c.W c.minRaw).getLsbD k = decide (k = c.W - 1)) ∧
    (c.W ≠ 64 → c.DW = 2 * c.W) ∧ (c.W = 64 → c.DW = c.W)

/-- R31: after reset every value register is zero, in every configuration. -/
def Obligations.ResetClearsEveryRegister : Prop :=
  ∀ (c : Config) (r : RegNum), (State.resetAt c).x[r] = 0

/-- R32 and R30: the outputs after reset show no response. The rest of the state after reset (nothing presented, nothing
answered, and the configuration of `State.reset`) is the model's choice, log entries 1 and 2. -/
def Obligations.ResetShowsNoResponse : Prop :=
  (∀ c : Config, (State.resetAt c).out = ⟨false, 0, 0⟩ ∧ (State.resetAt c).cfg = c ∧
    (State.resetAt c).stream = [] ∧ (State.resetAt c).responses = []) ∧
  State.reset = State.resetAt State.reset.cfg ∧ State.reset.cfg.W = 32 ∧ State.reset.cfg.F = 26

/-! ### Clock edges and steps -/

/-- R155, R156: an edge with `rst = 1` clears every register, answers nothing and ignores the other inputs. That it
keeps the list of the responses already given is the model's choice, log entry 3. -/
def Obligations.ResetEdgeClearsAndAnswersNothing : Prop :=
  ∀ s : State, s.inp.rst = true →
    ∃ y : Regs s.cfg, clockEdge s = .next { s with x := y, out := ⟨false, 0, 0⟩ } ∧ ∀ r : RegNum, y[r] = 0

/-- R30: an edge with `rst = 0` and `cmd_valid = 0` changes no register and shows no response. -/
def Obligations.IdleEdgeChangesNothing : Prop :=
  ∀ s : State, s.inp.rst = false → s.inp.cmdValid = false →
    clockEdge s = .next { s with out := ⟨false, 0, 0⟩ }

/-- A presented command that decodes runs as its meaning says. -/
def Obligations.CommandEdgeRunsTheCommand : Prop :=
  ∀ (s : State) (i : Instr), s.inp.rst = false → s.inp.cmdValid = true → decode s.inp.cmd = .ok i →
    clockEdge s = exec i s

/-- A step runs the decoded command: when the next cycle the host drives presents a command, the step is the meaning of that
command, in the state whose input ports are that cycle and whose stream is the rest. -/
def Obligations.StepRunsTheDecodedCommand : Prop :=
  ∀ (s : State) (p : PortIn s.cfg) (rest : List (PortIn s.cfg)) (i : Instr),
    s.stream = p :: rest → p.rst = false → p.cmdValid = true → decode p.cmd = .ok i →
    step s = exec i { s with inp := p, stream := rest }

/-- R130: presenting a reserved word writes no register and answers status 1 and data zero, whatever the configuration, the
data-in bus and the registers are. -/
def Obligations.ReservedWordRaisesIllegalCommand : Prop :=
  ∀ (s : State) (p : PortIn s.cfg) (rest : List (PortIn s.cfg)) (e : Reserved),
    s.stream = p :: rest → p.rst = false → p.cmdValid = true → decode p.cmd = .error e →
    Raised { s with inp := p, stream := rest } .illegalCmd 1 (step s)

/-- The priority of R136 at W = 64: the word 0xA012, SAT with a non-zero must-be-zero field, raises IllegalCommand and not
UnsupportedOp, and in a cycle with `rst = 1` nothing is raised. Every other reserved word at every width is in
ReservedWordsAreExactlyThese. That a reset cycle keeps the list of the responses already given, so that its length is
unchanged, is the model's choice, log entry 3. -/
def Obligations.DecodingComesBeforeTheWidth : Prop :=
  ∀ s : State, s.cfg.W = 64 → s.inp.cmd = 0xA012 →
    (s.inp.rst = false → s.inp.cmdValid = true → Raised s .illegalCmd 1 (clockEdge s)) ∧
    (s.inp.rst = true → ∃ t, clockEdge s = .next t ∧ t.out.rspStatus = 0 ∧ t.responses.length = s.responses.length)

/-- Cycles without an accepted command get no step of their own: an idle cycle before the next command changes nothing, a
reset cycle clears the registers, and what the host drives in them besides is lost. How such cycles enter a step is the
model's choice, log entry 5, and that a reset cycle keeps the responses already given is its choice too, log entry 3. -/
def Obligations.CyclesBeforeACommandGetNoStep : Prop :=
  ∀ (s : State) (p : PortIn s.cfg) (rest : List (PortIn s.cfg)), s.stream = p :: rest →
    (p.rst = false → p.cmdValid = false → step s = step { s with stream := rest }) ∧
    (p.rst = true → ∃ y : Regs s.cfg, (∀ r : RegNum, y[r] = 0) ∧ step s = step { s with x := y, stream := rest })

/-- A step answers a next state exactly when the host still presents a command; without one the run has ended. The refusal
that says so is the model's choice, log entry 5. -/
def Obligations.StepAnswersWhileCommandsCome : Prop :=
  ∀ s : State,
    ((∃ p ∈ s.stream, p.rst = false ∧ p.cmdValid = true) → ∃ t, step s = .next t) ∧
    ((∀ p ∈ s.stream, ¬ (p.rst = false ∧ p.cmdValid = true)) → step s = .refused .endOfRun)

/-- Each step takes the first accepted command of the stream and gives exactly one response to it: the responses are one per
command, in order, and no step changes the configuration. That the cycles skipped before the command, reset cycles among
them, enter its step is the model's choice, log entry 5; that a reset among them keeps the responses already given is its
choice too, log entry 3. -/
def Obligations.StepGivesOneResponseInOrder : Prop :=
  ∀ s t : State, step s = .next t →
    ∃ (skipped : List (PortIn s.cfg)) (p : PortIn s.cfg) (rest : List (PortIn s.cfg)) (y : Regs s.cfg)
      (r : Response s.cfg),
      s.stream = skipped ++ p :: rest ∧ (∀ q ∈ skipped, ¬ q.accepted) ∧ p.accepted ∧
      t = { s with x := y, inp := p, out := r.ports, stream := rest, responses := s.responses ++ [r] }

/-- Legal outputs and legal responses (R30, R131, R132) are kept by every step, from every state that has them. -/
def Obligations.StepKeepsOutputsLegal : Prop :=
  ∀ s t : State, s.Safe → step s = .next t → t.Safe

/-- Every clock edge keeps the outputs legal too, those of reset and idle cycles among them. -/
def Obligations.ClockEdgeKeepsOutputsLegal : Prop :=
  ∀ s t : State, s.Safe → clockEdge s = .next t → t.Safe

/-- `rsp_valid` is `cmd_valid AND NOT rst` in every cycle (R30), and the responses grow by one exactly then. That
their list keeps its length in a cycle with `rst = 1` is the model's choice, log entry 3. -/
def Obligations.ResponseIsValidExactlyForCommands : Prop :=
  ∀ s t : State, clockEdge s = .next t →
    t.out.rspValid = (s.inp.cmdValid && !s.inp.rst) ∧
    t.responses.length = s.responses.length + (s.inp.cmdValid && !s.inp.rst).toNat

/-- The outputs are legal right after reset, in every configuration. -/
def Obligations.ResetOutputsAreLegal : Prop := ∀ c : Config, (State.resetAt c).Safe

/-- R162 and R47 (a): whatever command writes a register, and whatever command comes in the next cycle, the second runs on
the register file that holds the value the first has written and answered; if it is RD of that register, it answers that
value. A command that is not available at this width writes nothing (R131). -/
def Obligations.NextCommandSeesTheWrite : Prop :=
  ∀ (s : State) (p q : PortIn s.cfg) (rest : List (PortIn s.cfg)) (i j : Instr) (d : RegNum),
    s.stream = p :: q :: rest → p.accepted → q.accepted → decode p.cmd = .ok i → decode q.cmd = .ok j →
    i.dest = some d → i.available s.cfg = true →
    ∃ (y : Regs s.cfg) (v : Value s.cfg), y[d] = v ∧ (∀ r : RegNum, r ≠ d → y[r] = s.x[r]) ∧
      (let t : State := { s with x := y, inp := p, out := ⟨true, 0, v⟩, stream := q :: rest,
                                 responses := s.responses ++ [⟨.ok, v⟩] }
       step s = .next t ∧ step t = exec j { t with inp := q, stream := rest } ∧
       (j = .rd d → step t = .next { t with inp := q, stream := rest, responses := t.responses ++ [⟨.ok, v⟩] }))

/-- R138: after an exception the FXU is as before: two reserved words in a row raise IllegalCommand twice, and the registers
are untouched. -/
def Obligations.ExceptionsLeaveNoTrace : Prop :=
  ∀ (s : State) (p q : PortIn s.cfg) (rest : List (PortIn s.cfg)) (e f : Reserved),
    s.stream = p :: q :: rest → p.accepted → q.accepted → decode p.cmd = .error e → decode q.cmd = .error f →
    ∃ t, step s = .next t ∧ step t = .next
      { s with inp := q, out := ⟨true, 1, 0⟩, stream := rest,
               responses := s.responses ++ [⟨.illegalCmd, 0⟩, ⟨.illegalCmd, 0⟩] }

/-! ### All commands -/

/-- Every command completes from every state: exec answers a next state, never a fault and never a refusal. -/
def Obligations.EveryCommandAnswersANextState : Prop := ∀ (i : Instr) (s : State), ∃ t, exec i s = .next t

/-- The frame of every command (the "writes" column of R23): all registers but the destination, and with a non-zero status
all registers, are unchanged, and so are the configuration, the input ports and the stream; one response is added. -/
def Obligations.CommandsWriteTheirDestinationOnly : Prop :=
  ∀ (i : Instr) (s t : State), exec i s = .next t →
    ∃ (y : Regs s.cfg) (r : Response s.cfg),
      t = { s with x := y, out := r.ports, responses := s.responses ++ [r] } ∧
      (∀ k : RegNum, i.dest ≠ some k → y[k] = s.x[k]) ∧
      (r.status ≠ .ok → r.data = 0 ∧ y = s.x) ∧
      (r.status = .ok → ∀ k : RegNum, i.dest = some k → y[k] = r.data)

/-- R29: a command depends on nothing but the configuration, the registers and its operands. From equal registers and an
equal data-in bus, whatever else differs, it gives the same registers and the same response. -/
def Obligations.ThereIsNoHiddenState : Prop :=
  ∀ (i : Instr) (s : State) (inp : PortIn s.cfg) (out : PortOut s.cfg) (stream : List (PortIn s.cfg))
    (responses : List (Response s.cfg)), inp.din = s.inp.din →
    ∃ (y : Regs s.cfg) (r : Response s.cfg),
      exec i s = .next { s with x := y, out := r.ports, responses := s.responses ++ [r] } ∧
      exec i { s with inp := inp, out := out, stream := stream, responses := responses } =
        .next { s with x := y, inp := inp, out := r.ports, stream := stream, responses := responses ++ [r] }

/-- R58: LDR and CVT do not depend on the bits of the data-in bus above W - 1, and the commands without an immediate on none
of its bits; the host need not drive zeros there. -/
def Obligations.UnusedInputBitsAreIgnored : Prop :=
  ∀ (i : Instr) (s : State) (inp : PortIn s.cfg),
    (i.usesDin = true → inp.din.toNat % 2 ^ s.cfg.W = s.inp.din.toNat % 2 ^ s.cfg.W) →
    ((∃ d, i = .sat d) → inp.din = s.inp.din) →
    ∃ (y : Regs s.cfg) (r : Response s.cfg),
      exec i s = .next { s with x := y, out := r.ports, responses := s.responses ++ [r] } ∧
      exec i { s with inp := inp } = .next { s with x := y, inp := inp, out := r.ports, responses := s.responses ++ [r] }

/-- R131: MULS, MULW and SAT raise UnsupportedOp at W = 64, and no command in any other case. -/
def Obligations.UnsupportedOpExactlyAtTheTop : Prop :=
  (∀ (s : State) (d a b : RegNum), s.cfg.W = 64 →
    Raised s .unsupportedOp 2 (exec (.muls d a b) s) ∧ Raised s .unsupportedOp 2 (exec (.mulw d a b) s) ∧
    Raised s .unsupportedOp 2 (exec (.sat d) s)) ∧
  (∀ (i : Instr) (s t : State), exec i s = .next t →
    (t.out.rspStatus = 2 ↔ s.cfg.W = 64 ∧ ((∃ d a b, i = .muls d a b) ∨ (∃ d a b, i = .mulw d a b) ∨ ∃ d, i = .sat d)))

/-- R65: which commands are available at which width, and that decoding depends on the word alone. -/
def Obligations.AvailabilityDecidesTheStatus : Prop :=
  ∀ (i : Instr) (s t : State), exec i s = .next t →
    (i.available s.cfg = true → t.out.rspStatus = 0) ∧ (i.available s.cfg = false → t.out.rspStatus = 2)

/-! ### Construction and raw access -/

/-- R75. -/
def Obligations.ZeroWritesZero : Prop :=
  ∀ (s : State) (d : RegNum),
    decode (BitVec.ofNat 16 (0x1000 + 256 * d.val)) = .ok (.zero d) ∧ Wrote s d 0 (exec (.zero d) s)

/-- R76: the low W bits of the data-in bus, stored verbatim. -/
def Obligations.LdrStoresTheBusVerbatim : Prop :=
  ∀ (s : State) (d : RegNum),
    decode (BitVec.ofNat 16 (0x2000 + 256 * d.val)) = .ok (.ldr d) ∧
    Wrote s d (s.inp.din.extractLsb' 0 s.cfg.W) (exec (.ldr d) s)

/-- R77: the procedure of the rule on the pattern of the input, and its one formula with the never-negative `mod`. The
reading for negative inputs is the spec's decision D11. -/
def Obligations.CvtMasksShiftsAndNegates : Prop :=
  ∀ (s : State) (d : RegNum),
    decode (BitVec.ofNat 16 (0x3000 + 256 * d.val)) = .ok (.cvt d) ∧
    ∃ v : Value s.cfg, Wrote s d v (exec (.cvt d) s) ∧
      (let p := s.inp.din.extractLsb' 0 s.cfg.W
       let r : Int := (p.toNat % 2 ^ s.cfg.I : Nat) * 2 ^ s.cfg.F
       v = BitVec.ofInt s.cfg.W (if p.toInt < 0 then -r else r) ∧
       (0 ≤ p.toInt → v.toInt = p.toInt % 2 ^ s.cfg.I * 2 ^ s.cfg.F) ∧
       (p.toInt < 0 → v.toInt = -(p.toInt % 2 ^ s.cfg.I * 2 ^ s.cfg.F)))

/-- R78 (b): an integer from 0 to 2^I - 1 is constructed exactly. -/
def Obligations.CvtIsExactInRange : Prop :=
  ∀ (s : State) (d : RegNum),
    0 ≤ (s.inp.din.extractLsb' 0 s.cfg.W).toInt → (s.inp.din.extractLsb' 0 s.cfg.W).toInt ≤ 2 ^ s.cfg.I - 1 →
    ∃ v : Value s.cfg, Wrote s d v (exec (.cvt d) s) ∧
      v.toInt = (s.inp.din.extractLsb' 0 s.cfg.W).toInt * 2 ^ s.cfg.F

/-- R78 (c), (e), (g): an input whose low I bits are zero constructs zero; so does every input when I = 0, and so does the
most negative input. -/
def Obligations.CvtTruncatesToZero : Prop :=
  ∀ (s : State) (d : RegNum),
    ((s.inp.din.extractLsb' 0 s.cfg.W).toInt % 2 ^ s.cfg.I = 0 → Wrote s d 0 (exec (.cvt d) s)) ∧
    (s.cfg.I = 0 → Wrote s d 0 (exec (.cvt d) s)) ∧
    ((s.inp.din.extractLsb' 0 s.cfg.W).toInt = -2 ^ (s.cfg.W - 1) → Wrote s d 0 (exec (.cvt d) s))

/-- R78 (d): on a negative input the result is the one of the other reading (mask the magnitude) exactly when twice the
input is a multiple of 2^I. -/
def Obligations.CvtReadingsAgreeExactlyWhen : Prop :=
  ∀ (s : State) (d : RegNum),
    let n := (s.inp.din.extractLsb' 0 s.cfg.W).toInt
    n < 0 →
    ∃ v : Value s.cfg, Wrote s d v (exec (.cvt d) s) ∧
      (v = BitVec.ofInt s.cfg.W (-((-n) % 2 ^ s.cfg.I * 2 ^ s.cfg.F)) ↔ (2 : Int) ^ s.cfg.I ∣ 2 * n)

/-- R79: the content of the register is the response, and no register is written. -/
def Obligations.RdReturnsTheRegister : Prop :=
  ∀ (s : State) (a : RegNum),
    decode (BitVec.ofNat 16 (0x4000 + 16 * a.val)) = .ok (.rd a) ∧ Answered s s.x[a] (exec (.rd a) s)

/-- R80: 0 followed by W - 1 ones, whatever F is. -/
def Obligations.MaxvWritesTheMaximum : Prop :=
  ∀ (s : State) (d : RegNum),
    decode (BitVec.ofNat 16 (0xB000 + 256 * d.val)) = .ok (.maxv d) ∧
    ∃ v : Value s.cfg, Wrote s d v (exec (.maxv d) s) ∧ v.toInt = 2 ^ (s.cfg.W - 1) - 1 ∧
      ∀ k, v.getLsbD k = decide (k < s.cfg.W - 1)

/-- R81: 1 followed by W - 1 zeros, whatever F is. -/
def Obligations.MinvWritesTheMinimum : Prop :=
  ∀ (s : State) (d : RegNum),
    decode (BitVec.ofNat 16 (0xC000 + 256 * d.val)) = .ok (.minv d) ∧
    ∃ v : Value s.cfg, Wrote s d v (exec (.minv d) s) ∧ v.toInt = -2 ^ (s.cfg.W - 1) ∧
      ∀ k, v.getLsbD k = decide (k = s.cfg.W - 1)

/-! ### Comparison -/

/-- R90: the vector with value 1 when all W bits of the two registers are equal, else 0; no register is written. -/
def Obligations.EqComparesEveryBit : Prop :=
  ∀ (s : State) (a b : RegNum),
    decode (BitVec.ofNat 16 (0x5000 + 16 * a.val + b.val)) = .ok (.eq a b) ∧
    ((∀ k, k < s.cfg.W → s.x[a].getLsbD k = s.x[b].getLsbD k) → Answered s (BitVec.ofNat s.cfg.W 1) (exec (.eq a b) s)) ∧
    ((∃ k, k < s.cfg.W ∧ s.x[a].getLsbD k ≠ s.x[b].getLsbD k) → Answered s 0 (exec (.eq a b) s))

/-! ### Addition and subtraction -/

/-- R96: the sum modulo 2^W, as unsigned and as signed numbers, and what it is when the exact sum is in range, above and
below. -/
def Obligations.AddWrapsSilently : Prop :=
  ∀ (s : State) (d a b : RegNum),
    decode (BitVec.ofNat 16 (0x6000 + 256 * d.val + 16 * a.val + b.val)) = .ok (.add d a b) ∧
    ∃ v : Value s.cfg, Wrote s d v (exec (.add d a b) s) ∧
      (let e := s.x[a].toInt + s.x[b].toInt
       v.toNat = (s.x[a].toNat + s.x[b].toNat) % 2 ^ s.cfg.W ∧ v = BitVec.ofInt s.cfg.W e ∧
       (-2 ^ (s.cfg.W - 1) ≤ e → e ≤ 2 ^ (s.cfg.W - 1) - 1 → v.toInt = e) ∧
       (2 ^ (s.cfg.W - 1) - 1 < e → v.toInt = e - 2 ^ s.cfg.W ∧ v.toInt < 0) ∧
       (e < -2 ^ (s.cfg.W - 1) → v.toInt = e + 2 ^ s.cfg.W ∧ 0 ≤ v.toInt))

/-- R97: the difference modulo 2^W, as unsigned and as signed numbers, and what it is when the exact difference is in
range, above and below. -/
def Obligations.SubWrapsSilently : Prop :=
  ∀ (s : State) (d a b : RegNum),
    decode (BitVec.ofNat 16 (0x7000 + 256 * d.val + 16 * a.val + b.val)) = .ok (.sub d a b) ∧
    ∃ v : Value s.cfg, Wrote s d v (exec (.sub d a b) s) ∧
      (let e := s.x[a].toInt - s.x[b].toInt
       (v.toNat : Int) = ((s.x[a].toNat : Int) - s.x[b].toNat) % 2 ^ s.cfg.W ∧ v = BitVec.ofInt s.cfg.W e ∧
       (-2 ^ (s.cfg.W - 1) ≤ e → e ≤ 2 ^ (s.cfg.W - 1) - 1 → v.toInt = e) ∧
       (2 ^ (s.cfg.W - 1) - 1 < e → v.toInt = e - 2 ^ s.cfg.W) ∧
       (e < -2 ^ (s.cfg.W - 1) → v.toInt = e + 2 ^ s.cfg.W))

/-- R98 (d): subtraction undoes addition and addition undoes subtraction, bit-exactly and for all register contents, when
the first command does not overwrite the second operand. -/
def Obligations.SubUndoesAdd : Prop :=
  ∀ (s : State) (d e a b : RegNum), d ≠ b →
    (∃ t u, exec (.add d a b) s = .next t ∧ exec (.sub e d b) t = .next u ∧ (u.reg e).toNat = (s.reg a).toNat) ∧
    (∃ t u, exec (.sub d a b) s = .next t ∧ exec (.add e d b) t = .next u ∧ (u.reg e).toNat = (s.reg a).toNat)

/-- R98 (a), (b): addition is commutative and associative, overflow or not. -/
def Obligations.AddIsCommutativeAndAssociative : Prop :=
  (∀ (s : State) (d a b : RegNum), exec (.add d a b) s = exec (.add d b a) s) ∧
  (∀ (s : State) (d e a b c : RegNum), d ≠ c → e ≠ a →
    ∃ t t' u u', exec (.add d a b) s = .next t ∧ exec (.add d d c) t = .next t' ∧
      exec (.add e b c) s = .next u ∧ exec (.add e a e) u = .next u' ∧ (t'.reg d).toNat = (u'.reg e).toNat)

/-- R98 (c), (e), (f) and R99 (a): zero is neutral, a register less itself is zero, zero less the minimum is the minimum, a
register added to itself doubles; each also when the destination is a source (R161). -/
def Obligations.AddSubCornerCases : Prop :=
  ∀ (s : State) (d a b : RegNum),
    (s.x[b] = 0 → Wrote s d s.x[a] (exec (.add d a b) s) ∧ Wrote s d s.x[a] (exec (.sub d a b) s)) ∧
    Wrote s d 0 (exec (.sub d a a) s) ∧
    (s.x[a] = 0 → s.x[b] = BitVec.intMin s.cfg.W → Wrote s d (BitVec.intMin s.cfg.W) (exec (.sub d a b) s)) ∧
    Wrote s d (BitVec.ofInt s.cfg.W (2 * s.x[a].toInt)) (exec (.add d a a) s)

/-! ### Multiplication -/

/-- R107: the exact signed product, shifted down by F toward minus infinity, goes to the nearer extreme when it is out of
range; at W = 64 the command raises UnsupportedOp. -/
def Obligations.MulsSaturates : Prop :=
  ∀ (s : State) (d a b : RegNum),
    decode (BitVec.ofNat 16 (0x8000 + 256 * d.val + 16 * a.val + b.val)) = .ok (.muls d a b) ∧
    (s.cfg.W = 64 → Raised s .unsupportedOp 2 (exec (.muls d a b) s)) ∧
    (s.cfg.W ≠ 64 → ∃ v : Value s.cfg, Wrote s d v (exec (.muls d a b) s) ∧
      (let q := (s.x[a].toInt * s.x[b].toInt).fdiv (2 ^ s.cfg.F)
       (2 ^ (s.cfg.W - 1) - 1 < q → v.toInt = 2 ^ (s.cfg.W - 1) - 1) ∧
       (q < -2 ^ (s.cfg.W - 1) → v.toInt = -2 ^ (s.cfg.W - 1)) ∧
       (-2 ^ (s.cfg.W - 1) ≤ q → q ≤ 2 ^ (s.cfg.W - 1) - 1 → v.toInt = q)))

/-- R108: the low W bits of the shifted product, in range the product itself, otherwise it plus a multiple of 2^W; in bits,
the slice of the 2W-bit product of the sign-extended operands that starts at bit F. At W = 64 it raises UnsupportedOp. -/
def Obligations.MulwKeepsTheLowBits : Prop :=
  ∀ (s : State) (d a b : RegNum),
    decode (BitVec.ofNat 16 (0x9000 + 256 * d.val + 16 * a.val + b.val)) = .ok (.mulw d a b) ∧
    (s.cfg.W = 64 → Raised s .unsupportedOp 2 (exec (.mulw d a b) s)) ∧
    (s.cfg.W ≠ 64 → ∃ v : Value s.cfg, Wrote s d v (exec (.mulw d a b) s) ∧
      (let q := (s.x[a].toInt * s.x[b].toInt).fdiv (2 ^ s.cfg.F)
       v = BitVec.ofInt s.cfg.W q ∧
       v = (s.x[a].signExtend (2 * s.cfg.W) * s.x[b].signExtend (2 * s.cfg.W)).extractLsb' s.cfg.F s.cfg.W ∧
       (-2 ^ (s.cfg.W - 1) ≤ q → q ≤ 2 ^ (s.cfg.W - 1) - 1 → v.toInt = q) ∧
       ∃ k : Int, v.toInt = q + k * 2 ^ s.cfg.W))

/-- R106 (a), (b): the product of the sign-extended operands modulo 2^(2W) is the exact product, and its arithmetic shift
right by F is the floor of the product over 2^F, so that MULS is the clamp of a value the 2W-bit datapath computes. -/
def Obligations.MulsRefinesTheWideDatapath : Prop :=
  ∀ (s : State) (d a b : RegNum), s.cfg.W ≠ 64 →
    let p := s.x[a].signExtend (2 * s.cfg.W) * s.x[b].signExtend (2 * s.cfg.W)
    let q := (p.sshiftRight s.cfg.F).toInt
    p.toInt = s.x[a].toInt * s.x[b].toInt ∧
    q = (s.x[a].toInt * s.x[b].toInt).fdiv (2 ^ s.cfg.F) ∧
    Wrote s d (BitVec.ofInt s.cfg.W (max (-2 ^ (s.cfg.W - 1)) (min q (2 ^ (s.cfg.W - 1) - 1)))) (exec (.muls d a b) s)

/-- The real-number meaning of R106: when the shifted product is in range, both multiplications give the product of the
represented numbers rounded down to a multiple of 2^-F. -/
def Obligations.MultiplicationRoundsDown : Prop :=
  ∀ (s : State) (d a b : RegNum), s.cfg.W ≠ 64 →
    -2 ^ (s.cfg.W - 1) ≤ (s.x[a].toInt * s.x[b].toInt).fdiv (2 ^ s.cfg.F) →
    (s.x[a].toInt * s.x[b].toInt).fdiv (2 ^ s.cfg.F) ≤ 2 ^ (s.cfg.W - 1) - 1 →
    ∃ v : Value s.cfg, Wrote s d v (exec (.muls d a b) s) ∧ Wrote s d v (exec (.mulw d a b) s) ∧
      represents v ≤ represents s.x[a] * represents s.x[b] ∧
      represents s.x[a] * represents s.x[b] < represents v + 1 / 2 ^ s.cfg.F

/-- R109 (a): MULS and MULW give the same result exactly when the shifted product is in range or the wrapped result happens
to be the extreme MULS returns. -/
def Obligations.PoliciesAgreeExactlyWhen : Prop :=
  ∀ (s : State) (d a b : RegNum), s.cfg.W ≠ 64 →
    ∃ v w : Value s.cfg, Wrote s d v (exec (.muls d a b) s) ∧ Wrote s d w (exec (.mulw d a b) s) ∧
      (let q := (s.x[a].toInt * s.x[b].toInt).fdiv (2 ^ s.cfg.F)
       v = w ↔ (-2 ^ (s.cfg.W - 1) ≤ q ∧ q ≤ 2 ^ (s.cfg.W - 1) - 1) ∨
         (2 ^ (s.cfg.W - 1) - 1 < q ∧ q % 2 ^ s.cfg.W = 2 ^ (s.cfg.W - 1) - 1) ∨
         (q < -2 ^ (s.cfg.W - 1) ∧ q % 2 ^ s.cfg.W = 2 ^ (s.cfg.W - 1)))

/-- R109 (b), (c), (e): both multiplications are commutative, give zero for a zero operand, and give the other operand back
for the fixed-point one, which a register can hold when I >= 1. -/
def Obligations.MultiplicationUnits : Prop :=
  (∀ (s : State) (d a b : RegNum),
    exec (.muls d a b) s = exec (.muls d b a) s ∧ exec (.mulw d a b) s = exec (.mulw d b a) s) ∧
  (∀ (s : State) (d a b : RegNum), s.cfg.W ≠ 64 → s.x[b] = 0 →
    Wrote s d 0 (exec (.muls d a b) s) ∧ Wrote s d 0 (exec (.mulw d a b) s)) ∧
  (∀ (s : State) (d a b : RegNum), s.cfg.W ≠ 64 → 1 ≤ s.cfg.I → s.x[b] = BitVec.ofNat s.cfg.W (2 ^ s.cfg.F) →
    Wrote s d s.x[a] (exec (.muls d a b) s) ∧ Wrote s d s.x[a] (exec (.mulw d a b) s))

/-- R109 (d): MULS returns a negative result exactly when the exact product is negative, and zero exactly when the product is
at least 0 and below 2^F. -/
def Obligations.MulsKeepsTheSign : Prop :=
  ∀ (s : State) (d a b : RegNum), s.cfg.W ≠ 64 →
    ∃ v : Value s.cfg, Wrote s d v (exec (.muls d a b) s) ∧
      (v.toInt < 0 ↔ s.x[a].toInt * s.x[b].toInt < 0) ∧
      (v = 0 ↔ 0 ≤ s.x[a].toInt * s.x[b].toInt ∧ s.x[a].toInt * s.x[b].toInt < 2 ^ s.cfg.F)

/-- R110 (a), (d): the minimum times itself and the minimum times the value -1 overflow in every configuration: MULS gives
the maximum; MULW gives zero or, when F = W - 1, the minimum for the first, and the minimum for the second. -/
def Obligations.MinimumTimesMinimum : Prop :=
  ∀ (s : State) (d a b : RegNum), s.cfg.W ≠ 64 → s.x[a].toInt = -2 ^ (s.cfg.W - 1) →
    (s.x[b].toInt = -2 ^ (s.cfg.W - 1) →
      Wrote s d (BitVec.intMax s.cfg.W) (exec (.muls d a b) s) ∧
      (s.cfg.F + 2 ≤ s.cfg.W → Wrote s d 0 (exec (.mulw d a b) s)) ∧
      (s.cfg.F + 1 = s.cfg.W → Wrote s d (BitVec.intMin s.cfg.W) (exec (.mulw d a b) s))) ∧
    (s.x[b].toInt = -2 ^ s.cfg.F →
      Wrote s d (BitVec.intMax s.cfg.W) (exec (.muls d a b) s) ∧
      Wrote s d (BitVec.intMin s.cfg.W) (exec (.mulw d a b) s))

/-! ### Saturation -/

/-- R122: the three cases of the clamp, and that it is monotonic, idempotent and the identity in range. -/
def Obligations.ClampLaws : Prop :=
  ∀ (n : Nat) (z z' : Int),
    (2 ^ (n - 1) - 1 < z → clamp n z = 2 ^ (n - 1) - 1) ∧ (z < -2 ^ (n - 1) → clamp n z = -2 ^ (n - 1)) ∧
    (-2 ^ (n - 1) ≤ z → z ≤ 2 ^ (n - 1) - 1 → clamp n z = z) ∧
    (z ≤ z' → clamp n z ≤ clamp n z') ∧ clamp n (clamp n z) = clamp n z ∧
    -2 ^ (n - 1) ≤ clamp n z ∧ clamp n z ≤ 2 ^ (n - 1) - 1

/-- R123: below W = 64 the whole data-in bus, 2W bits, read as signed and taken to the nearer extreme when out of range; at
W = 64 the command raises UnsupportedOp. -/
def Obligations.SatClampsTheWholeBus : Prop :=
  ∀ (s : State) (d : RegNum),
    decode (BitVec.ofNat 16 (0xA000 + 256 * d.val)) = .ok (.sat d) ∧
    (s.cfg.W = 64 → Raised s .unsupportedOp 2 (exec (.sat d) s)) ∧
    (s.cfg.W ≠ 64 → s.cfg.DW = 2 * s.cfg.W ∧ ∃ v : Value s.cfg, Wrote s d v (exec (.sat d) s) ∧
      (let z := s.inp.din.toInt
       (2 ^ (s.cfg.W - 1) - 1 < z → v.toInt = 2 ^ (s.cfg.W - 1) - 1) ∧
       (z < -2 ^ (s.cfg.W - 1) → v.toInt = -2 ^ (s.cfg.W - 1)) ∧
       (-2 ^ (s.cfg.W - 1) ≤ z → z ≤ 2 ^ (s.cfg.W - 1) - 1 → v.toInt = z)))

/-- R124 (a), (b): in range SAT stores what LDR stores for the same data-in bus. -/
def Obligations.SatIsLdrInRange : Prop :=
  ∀ (s : State) (d : RegNum), s.cfg.W ≠ 64 →
    -2 ^ (s.cfg.W - 1) ≤ s.inp.din.toInt → s.inp.din.toInt ≤ 2 ^ (s.cfg.W - 1) - 1 →
    ∃ v : Value s.cfg, Wrote s d v (exec (.sat d) s) ∧ Wrote s d v (exec (.ldr d) s)

/-- R124 (f): MULS equals SAT applied to the shifted product: a host that computes Q itself and sends it to SAT gets the
registers and the response of MULS. -/
def Obligations.MulsIsSatOfTheProduct : Prop :=
  ∀ (s : State) (d a b : RegNum) (inp : PortIn s.cfg), s.cfg.W ≠ 64 →
    inp.din = BitVec.ofInt s.cfg.DW ((s.x[a].toInt * s.x[b].toInt).fdiv (2 ^ s.cfg.F)) →
    ∃ v : Value s.cfg, Wrote s d v (exec (.muls d a b) s) ∧ Wrote { s with inp := inp } d v (exec (.sat d) { s with inp := inp })
end

