-- ==== Sys2Proof/Laws/Config.lean ====
section
/-! SUPPORT. The numbers of a configuration: bounds on W, F and I, and the width of the data-in bus. -/

namespace Sys2Proof

theorem Width.bits_pos (w : Width) : 0 < w.bits := by cases w <;> decide

/-- Below the top of the table the data-in bus is twice as wide as a register (R7, R120). -/
theorem Width.dataBits_eq (w : Width) (h : w.bits ≠ 64) : w.dataBits = 2 * w.bits := by
  cases w <;> first | rfl | exact absurd rfl h

/-- The data-in bus is never narrower than a register. -/
theorem Width.bits_le_dataBits (w : Width) : w.bits ≤ w.dataBits := by cases w <;> decide

theorem Config.F_lt (c : Config) : c.F < c.W := c.frac.isLt

/-- Sign bit, integer bits and fraction bits make up the register (R5). -/
theorem Config.I_add_F (c : Config) : c.I + c.F + 1 = c.W := by
  have := c.F_lt
  unfold Config.I
  omega

end Sys2Proof
end

