-- ==== Sys2Proof/Laws/Arith.lean ====
section
/-! SUPPORT. Arithmetic of the conversions: signed values in range, wrapping, the clamp and the arithmetic shift. -/

namespace Sys2Proof.Machine

/-- Half the range, twice. -/
theorem two_pow_pred {n : Nat} (hn : 0 < n) : (2 : Int) ^ n = 2 ^ (n - 1) * 2 := by
  rw [← pow_succ]
  congr 1
  omega

theorem two_pow_pos (n : Nat) : (0 : Int) < 2 ^ n := by positivity

/-- The signed value of a vector lies in its range (R11). -/
theorem toInt_range {n : Nat} (hn : 0 < n) (b : BitVec n) : -2 ^ (n - 1) ≤ b.toInt ∧ b.toInt ≤ 2 ^ (n - 1) - 1 := by
  have h1 := BitVec.le_two_mul_toInt (x := b)
  have h2 := BitVec.two_mul_toInt_lt (x := b)
  have := two_pow_pred hn
  constructor <;> omega

/-- Narrowing is lossless in range: `sval_N(bits_N(z)) = z` (R11). -/
theorem toInt_ofInt_of_range {n : Nat} (hn : 0 < n) {z : Int} (h1 : -2 ^ (n - 1) ≤ z) (h2 : z ≤ 2 ^ (n - 1) - 1) :
    (BitVec.ofInt n z).toInt = z := by
  have := two_pow_pred hn
  rw [BitVec.toInt_ofInt]
  apply Int.bmod_eq_of_le <;> push_cast <;> omega

/-- Narrowing depends on the number modulo 2^N alone (R11). -/
theorem ofInt_eq_iff {n : Nat} {y z : Int} : BitVec.ofInt n y = BitVec.ofInt n z ↔ y % 2 ^ n = z % 2 ^ n := by
  rw [← BitVec.toNat_inj, BitVec.toNat_ofInt, BitVec.toNat_ofInt]
  have h1 := Int.emod_nonneg y (two_pow_pos n).ne'
  have h2 := Int.emod_nonneg z (two_pow_pos n).ne'
  push_cast
  omega

theorem ofInt_toInt {n : Nat} (b : BitVec n) : BitVec.ofInt n b.toInt = b := BitVec.ofInt_toInt

/-- The signed value agrees with the unsigned one modulo 2^N. -/
theorem toInt_emod {n : Nat} (b : BitVec n) : b.toInt % 2 ^ n = b.toNat := by
  have h := congrArg BitVec.toNat (BitVec.ofInt_toInt (x := b))
  rw [BitVec.toNat_ofInt] at h
  have := Int.emod_nonneg b.toInt (two_pow_pos n).ne'
  push_cast at h
  omega

/-- The clamp is into the range of its width (R122). -/
theorem clamp_range (n : Nat) (z : Int) : -2 ^ (n - 1) ≤ clamp n z ∧ clamp n z ≤ 2 ^ (n - 1) - 1 := by
  have := two_pow_pos (n - 1)
  unfold clamp
  split
  · omega
  · split <;> omega

/-- A clamped value survives the narrowing. -/
theorem toInt_ofInt_clamp {n : Nat} (hn : 0 < n) (z : Int) : (BitVec.ofInt n (clamp n z)).toInt = clamp n z :=
  toInt_ofInt_of_range hn (clamp_range n z).1 (clamp_range n z).2

/-- The arithmetic shift is the floor of the quotient (R11). -/
theorem asr_eq_fdiv (z : Int) (k : Nat) : asr z k = z.fdiv (2 ^ k) := by
  unfold asr
  rw [Int.fdiv_eq_ediv_of_nonneg _ (two_pow_pos k).le]

theorem asr_eq_floor (z : Int) (k : Nat) : asr z k = ⌊(z : ℚ) / 2 ^ k⌋ := by
  unfold asr
  have := Rat.floor_intCast_div_natCast z (2 ^ k)
  push_cast at this
  exact this.symm

/-- The product of two register values fits the double width: `|P| <= 2^(2W-2)` (R106). -/
theorem mul_range {n : Nat} (hn : 0 < n) (a b : BitVec n) :
    -(2 ^ (n - 1) * 2 ^ (n - 1)) ≤ a.toInt * b.toInt ∧ a.toInt * b.toInt ≤ 2 ^ (n - 1) * 2 ^ (n - 1) := by
  obtain ⟨a1, a2⟩ := toInt_range hn a
  obtain ⟨b1, b2⟩ := toInt_range hn b
  have := two_pow_pos (n - 1)
  constructor <;> nlinarith

end Sys2Proof.Machine
end

