-- ==== Sys2Proof/Laws/Decode.lean ====
section
/-! SUPPORT. The fields of a command word: what packing four fields gives back, and that the fields determine the word. -/

namespace Sys2Proof

theorem opField_val (w : CmdWord) : (opField w).val = w.toNat / 2 ^ 12 := by
  have := w.isLt
  simp [opField, Nat.shiftRight_eq_div_pow]
  omega

theorem dField_val (w : CmdWord) : (dField w).val = w.toNat / 2 ^ 8 % 16 := by
  simp [dField, Nat.shiftRight_eq_div_pow]

theorem aField_val (w : CmdWord) : (aField w).val = w.toNat / 2 ^ 4 % 16 := by
  simp [aField, Nat.shiftRight_eq_div_pow]

theorem bField_val (w : CmdWord) : (bField w).val = w.toNat % 16 := by
  simp [bField]

theorem packWord_toNat (op : Fin 16) (d a b : RegNum) :
    (packWord op d a b).toNat = op.val * 2 ^ 12 + d.val * 2 ^ 8 + a.val * 2 ^ 4 + b.val := by
  have := op.isLt; have := d.isLt; have := a.isLt; have := b.isLt
  simp only [packWord, BitVec.toNat_ofNat]
  apply Nat.mod_eq_of_lt
  omega

section
variable (op : Fin 16) (d a b : RegNum)

theorem opField_packWord : opField (packWord op d a b) = op := by
  have := d.isLt; have := a.isLt; have := b.isLt
  apply Fin.ext; rw [opField_val, packWord_toNat]; omega

theorem dField_packWord : dField (packWord op d a b) = d := by
  have := d.isLt; have := a.isLt; have := b.isLt
  apply Fin.ext; rw [dField_val, packWord_toNat]; omega

theorem aField_packWord : aField (packWord op d a b) = a := by
  have := d.isLt; have := a.isLt; have := b.isLt
  apply Fin.ext; rw [aField_val, packWord_toNat]; omega

theorem bField_packWord : bField (packWord op d a b) = b := by
  have := d.isLt; have := a.isLt; have := b.isLt
  apply Fin.ext; rw [bField_val, packWord_toNat]; omega

end

/-- A word is its four fields (R56). -/
theorem packWord_fields (w : CmdWord) : packWord (opField w) (dField w) (aField w) (bField w) = w := by
  have := w.isLt
  apply BitVec.eq_of_toNat_eq
  rw [packWord_toNat, opField_val, dField_val, aField_val, bField_val]
  omega

/-! The masks of R61 keep whole fields. -/

/-- Shifting a word right and back clears its low bits. -/
theorem toNat_clearLow (w : CmdWord) (k : Nat) : ((w >>> k) <<< k).toNat = w.toNat / 2 ^ k * 2 ^ k := by
  have h := w.isLt
  have h1 : w.toNat / 2 ^ k * 2 ^ k ≤ w.toNat := Nat.div_mul_le_self _ _
  simp only [BitVec.toNat_shiftLeft, BitVec.toNat_ushiftRight, Nat.shiftRight_eq_div_pow, Nat.shiftLeft_eq]
  omega

theorem toNat_and_00FF (w : CmdWord) : (w &&& 0x00FF).toNat = w.toNat % 256 := by
  rw [BitVec.toNat_and]
  exact Nat.and_two_pow_sub_one_eq_mod _ 8

theorem toNat_and_000F (w : CmdWord) : (w &&& 0x000F).toNat = w.toNat % 16 := by
  rw [BitVec.toNat_and]
  exact Nat.and_two_pow_sub_one_eq_mod _ 4

/-- The mask of format R3 keeps the opcode. -/
theorem toNat_and_F000 (w : CmdWord) : (w &&& 0xF000).toNat = w.toNat / 2 ^ 12 * 2 ^ 12 := by
  rw [← toNat_clearLow]
  congr 1
  ext i hi
  interval_cases i <;> simp

/-- The mask of format C keeps the opcode and `d`. -/
theorem toNat_and_FF00 (w : CmdWord) : (w &&& 0xFF00).toNat = w.toNat / 2 ^ 8 * 2 ^ 8 := by
  rw [← toNat_clearLow]
  congr 1
  ext i hi
  interval_cases i <;> simp

/-- The mask of format D keeps the opcode, `a` and `b`. -/
theorem toNat_and_F0FF (w : CmdWord) : (w &&& 0xF0FF).toNat = w.toNat / 2 ^ 12 * 2 ^ 12 + w.toNat % 256 := by
  have e : w &&& (0xF0FF : CmdWord) = ((w >>> 12) <<< 12) + (w &&& (0x00FF : CmdWord)) := by
    rw [BitVec.add_eq_or_of_and_eq_zero] <;> (ext i hi; interval_cases i <;> simp)
  have := w.isLt
  rw [e, BitVec.toNat_add, toNat_clearLow, toNat_and_00FF]
  omega

/-- The mask of format A keeps the opcode, `d` and `b`. -/
theorem toNat_and_FF0F (w : CmdWord) : (w &&& 0xFF0F).toNat = w.toNat / 2 ^ 8 * 2 ^ 8 + w.toNat % 16 := by
  have e : w &&& (0xFF0F : CmdWord) = ((w >>> 8) <<< 8) + (w &&& (0x000F : CmdWord)) := by
    rw [BitVec.add_eq_or_of_and_eq_zero] <;> (ext i hi; interval_cases i <;> simp)
  have := w.isLt
  rw [e, BitVec.toNat_add, toNat_clearLow, toNat_and_000F]
  omega

end Sys2Proof
end

