-- ==== Sys2Proof/Laws/State.lean ====
section
/-! SUPPORT. One lemma per field per update of the state, so that no later proof unfolds a record update. -/

namespace Sys2Proof.Machine

section
variable (s : State) (i : RegNum) (v : Value s.cfg) (r : Response s.cfg)

@[simp] theorem State.setReg_cfg : (s.setReg i v).cfg = s.cfg := rfl
@[simp] theorem State.setReg_x : (s.setReg i v).x = s.x.set i v := rfl
@[simp] theorem State.setReg_inp : (s.setReg i v).inp = s.inp := rfl
@[simp] theorem State.setReg_out : (s.setReg i v).out = s.out := rfl
@[simp] theorem State.setReg_stream : (s.setReg i v).stream = s.stream := rfl
@[simp] theorem State.setReg_responses : (s.setReg i v).responses = s.responses := rfl

@[simp] theorem State.respond_cfg : (s.respond r).cfg = s.cfg := rfl
@[simp] theorem State.respond_x : (s.respond r).x = s.x := rfl
@[simp] theorem State.respond_inp : (s.respond r).inp = s.inp := rfl
@[simp] theorem State.respond_out : (s.respond r).out = r.ports := rfl
@[simp] theorem State.respond_stream : (s.respond r).stream = s.stream := rfl
@[simp] theorem State.respond_responses : (s.respond r).responses = s.responses ++ [r] := rfl

@[simp] theorem State.resetEdge_cfg : s.resetEdge.cfg = s.cfg := rfl
@[simp] theorem State.resetEdge_x : s.resetEdge.x = Regs.zero s.cfg := rfl
@[simp] theorem State.resetEdge_inp : s.resetEdge.inp = s.inp := rfl
@[simp] theorem State.resetEdge_out : s.resetEdge.out = PortOut.quiet s.cfg := rfl
@[simp] theorem State.resetEdge_stream : s.resetEdge.stream = s.stream := rfl
@[simp] theorem State.resetEdge_responses : s.resetEdge.responses = s.responses := rfl

@[simp] theorem State.idleEdge_cfg : s.idleEdge.cfg = s.cfg := rfl
@[simp] theorem State.idleEdge_x : s.idleEdge.x = s.x := rfl
@[simp] theorem State.idleEdge_inp : s.idleEdge.inp = s.inp := rfl
@[simp] theorem State.idleEdge_out : s.idleEdge.out = PortOut.quiet s.cfg := rfl
@[simp] theorem State.idleEdge_stream : s.idleEdge.stream = s.stream := rfl
@[simp] theorem State.idleEdge_responses : s.idleEdge.responses = s.responses := rfl

section
variable (n : Regs s.cfg × PortIn s.cfg × List (PortIn s.cfg))

@[simp] theorem State.present_cfg : (s.present n).cfg = s.cfg := rfl
@[simp] theorem State.present_x : (s.present n).x = n.1 := rfl
@[simp] theorem State.present_inp : (s.present n).inp = n.2.1 := rfl
@[simp] theorem State.present_out : (s.present n).out = s.out := rfl
@[simp] theorem State.present_stream : (s.present n).stream = n.2.2 := rfl
@[simp] theorem State.present_responses : (s.present n).responses = s.responses := rfl

end

@[simp] theorem State.withFetchWord_cfg (n w : Nat) : (s.withFetchWord n w).cfg = s.cfg := rfl
@[simp] theorem State.withFetchWord_x (n w : Nat) : (s.withFetchWord n w).x = s.x := rfl
@[simp] theorem State.withFetchWord_inp (n w : Nat) : (s.withFetchWord n w).inp = s.inp := rfl
@[simp] theorem State.withFetchWord_out (n w : Nat) : (s.withFetchWord n w).out = s.out := rfl
@[simp] theorem State.withFetchWord_responses (n w : Nat) : (s.withFetchWord n w).responses = s.responses := rfl
@[simp] theorem State.withFetchWord_stream (n w : Nat) :
    (s.withFetchWord n w).stream = PortIn.command s.cfg (BitVec.ofNat 16 (w % 2 ^ n)) 0 :: s.stream := rfl

end

/-- Reading a register of a file after writing one. -/
theorem Regs.get_set {c : Config} (x : Regs c) (i j : RegNum) (v : Value c) :
    (x.set i v)[j] = if j = i then v else x[j] := by
  show (x.set i.val v i.isLt)[j.val] = if j = i then v else x[j.val]
  rw [Vector.getElem_set]
  by_cases h : j = i
  · simp [h]
  · simp [h, Fin.val_inj, Ne.symm h]

/-- Reading a register after writing one. -/
@[simp] theorem State.reg_setReg (s : State) (i j : RegNum) (v : Value s.cfg) :
    (s.setReg i v).reg j = if j = i then v else s.reg j :=
  Regs.get_set s.x i j v

/-- A response leaves the registers alone. -/
@[simp] theorem State.reg_respond (s : State) (j : RegNum) (r : Response s.cfg) : (s.respond r).reg j = s.reg j := rfl

/-- Every register of the cleared file is zero. -/
@[simp] theorem Regs.zero_get (c : Config) (j : RegNum) : (Regs.zero c)[j] = 0 := by
  simp [Regs.zero]

/-- Two register files with equal registers are equal. -/
theorem Regs.ext_get {c : Config} {x y : Regs c} (h : ∀ r : RegNum, x[r] = y[r]) : x = y :=
  Vector.ext fun i hi => h ⟨i, hi⟩

end Sys2Proof.Machine
end

