-- ==== Sys2Proof/Laws/Ops.lean ====
section
/-! SUPPORT. What the shared operations do, once each: how a command ends, and which cycle the next command comes from. -/

namespace Sys2Proof.Machine

/-- A command that writes gives exactly the outcome `Wrote` names. -/
theorem complete_wrote (s : State) (d : RegNum) (v : Value s.cfg) : Wrote s d v (complete s d v) :=
  ⟨s.x.set d v, rfl, by rw [Regs.get_set, if_pos rfl], fun r hr => by rw [Regs.get_set, if_neg hr]⟩

/-- A command that only answers gives exactly the outcome `Answered` names. -/
theorem answer_answered (s : State) (v : Value s.cfg) : Answered s v (answer s v) := rfl

/-- The two exceptions, with their status and code. -/
theorem raise_illegalCommand (s : State) : Raised s .illegalCmd 1 (raise s .illegalCommand) := rfl
theorem raise_unsupportedOp (s : State) : Raised s .unsupportedOp 2 (raise s .unsupportedOp) := rfl

theorem withWider_of_ne {s : State} {k : Host.Outcome State Fault Refusal} (h : s.cfg.W ≠ 64) : withWider s k = k :=
  if_neg h

theorem withWider_of_eq {s : State} {k : Host.Outcome State Fault Refusal} (h : s.cfg.W = 64) :
    withWider s k = raise s .unsupportedOp :=
  if_pos h

/-- Every command and both exceptions end the same way: the registers change, one response is given, nothing else. This
is all that a step's last part can do. -/
def Ended (s t : State) : Prop :=
  ∃ (y : Regs s.cfg) (r : Response s.cfg),
    t = { s with x := y, out := r.ports, responses := s.responses ++ [r] } ∧
    (r.status ≠ .ok → r.data = 0 ∧ y = s.x) ∧ (r.status = .unsupportedOp → s.cfg.W = 64)

theorem complete_ended {s t : State} {d : RegNum} {v : Value s.cfg} (h : complete s d v = .next t) : Ended s t := by
  cases h
  exact ⟨s.x.set d v, Response.ok v, rfl, by simp [Response.ok], by simp [Response.ok]⟩

theorem answer_ended {s t : State} {v : Value s.cfg} (h : answer s v = .next t) : Ended s t := by
  cases h
  exact ⟨s.x, Response.ok v, rfl, by simp [Response.ok], by simp [Response.ok]⟩

theorem raise_illegalCommand_ended {s t : State} (h : raise s .illegalCommand = .next t) : Ended s t := by
  cases h
  exact ⟨s.x, Exception.illegalCommand.response s.cfg, rfl, by simp [Exception.response],
    by simp [Exception.response, Exception.status]⟩

theorem withWider_ended {s t : State} {k : Host.Outcome State Fault Refusal} (hk : k = .next t → Ended s t)
    (h : withWider s k = .next t) : Ended s t := by
  unfold withWider at h
  split at h
  · rename_i hw
    cases h
    exact ⟨s.x, Exception.unsupportedOp.response s.cfg, rfl, by simp [Exception.response], fun _ => hw⟩
  · exact hk h

/-- What `nextCommand` finds: an accepted cycle of the stream, everything before it unaccepted, and the registers either
as they were or cleared. -/
theorem nextCommand_some {c : Config} {x y : Regs c} {l rest : List (PortIn c)} {p : PortIn c}
    (h : nextCommand x l = some (y, p, rest)) :
    ∃ skipped, l = skipped ++ p :: rest ∧ p.accepted ∧ (∀ q ∈ skipped, ¬ q.accepted) ∧
      y = if skipped.any (·.rst) then Regs.zero c else x := by
  induction l generalizing x with
  | nil => cases h
  | cons q l ih =>
    unfold nextCommand at h
    split at h
    · rename_i hr
      obtain ⟨sk, rfl, ha, hs, hy⟩ := ih h
      exact ⟨q :: sk, rfl, ha, by simpa [hr] using hs, by simp [hr, hy]⟩
    · rename_i hr
      split at h
      · rename_i hv
        cases h
        exact ⟨[], rfl, ⟨by simpa using hr, hv⟩, by simp, by simp⟩
      · rename_i hv
        obtain ⟨sk, rfl, ha, hs, hy⟩ := ih h
        exact ⟨q :: sk, rfl, ha, by simpa [hv] using hs, by simp [hr, hy]⟩

/-- `nextCommand` finds nothing exactly when no cycle of the stream is accepted. -/
theorem nextCommand_none {c : Config} {x : Regs c} {l : List (PortIn c)} :
    nextCommand x l = none ↔ ∀ p ∈ l, ¬ p.accepted := by
  induction l generalizing x with
  | nil => simp [nextCommand]
  | cons q l ih =>
    unfold nextCommand
    split
    · rename_i hr; simp [ih, hr]
    · rename_i hr
      split
      · rename_i hv; simp [hr, hv]
      · rename_i hv; simp [ih, hv]

end Sys2Proof.Machine
end

