-- ==== Sys2Proof/Laws/PerInstr.lean ====
section
/-! SUPPORT. Family EncodeSelectsRow: the encoder's word matches the row of R61 that stands for its command. -/

namespace Sys2Proof.Laws.EncodeSelectsRow

/-- The word of the command, masked, is the row's match value (R61). -/
def Statement (i : Instr) : Prop := encode i &&& i.mask = i.matchWord

/-- A word of format R3 matches its row whatever its registers are. -/
theorem packWord_and_F000 (op : Fin 16) (d a b : RegNum) :
    packWord op d a b &&& 0xF000 = BitVec.ofNat 16 (op.val * 2 ^ 12) := by
  have := op.isLt; have := d.isLt; have := a.isLt; have := b.isLt
  apply BitVec.eq_of_toNat_eq
  rw [toNat_and_F000, packWord_toNat, BitVec.toNat_ofNat]
  omega

theorem zero : ∀ d, Statement (.zero d) := by unfold Statement; decide
theorem ldr : ∀ d, Statement (.ldr d) := by unfold Statement; decide
theorem cvt : ∀ d, Statement (.cvt d) := by unfold Statement; decide
theorem rd : ∀ a, Statement (.rd a) := by unfold Statement; decide
theorem eq : ∀ a b, Statement (.eq a b) := by unfold Statement; decide
theorem add (d a b : RegNum) : Statement (.add d a b) := packWord_and_F000 0x6 d a b
theorem sub (d a b : RegNum) : Statement (.sub d a b) := packWord_and_F000 0x7 d a b
theorem muls (d a b : RegNum) : Statement (.muls d a b) := packWord_and_F000 0x8 d a b
theorem mulw (d a b : RegNum) : Statement (.mulw d a b) := packWord_and_F000 0x9 d a b
theorem sat : ∀ d, Statement (.sat d) := by unfold Statement; decide
theorem maxv : ∀ d, Statement (.maxv d) := by unfold Statement; decide
theorem minv : ∀ d, Statement (.minv d) := by unfold Statement; decide

end Sys2Proof.Laws.EncodeSelectsRow
end

