-- ==== Sys2Proof/Laws/Step.lean ====
section
/-! SUPPORT. What a command, a clock edge and a step can do, said once. -/

namespace Sys2Proof.Machine

/-- Whatever the command, it ends as `Ended` says. -/
theorem exec_ended {i : Instr} {s t : State} (h : exec i s = .next t) : Ended s t := by
  cases i with
  | zero d => exact complete_ended h
  | ldr d => exact complete_ended h
  | cvt d => exact complete_ended h
  | rd a => exact answer_ended h
  | eq a b => exact answer_ended h
  | add d a b => exact complete_ended h
  | sub d a b => exact complete_ended h
  | muls d a b => exact withWider_ended complete_ended h
  | mulw d a b => exact withWider_ended complete_ended h
  | sat d => exact withWider_ended complete_ended h
  | maxv d => exact complete_ended h
  | minv d => exact complete_ended h

/-- A command with a destination that is available at this width writes it and answers what it wrote. -/
theorem exec_wrote {i : Instr} {s : State} {d : RegNum} (hd : i.dest = some d) (ha : i.available s.cfg = true) :
    ∃ v, Wrote s d v (exec i s) := by
  have wide {v : Value s.cfg} (h : s.cfg.W ≠ 64) : Wrote s d v (withWider s (complete s d v)) :=
    withWider_of_ne h ▸ complete_wrote s d v
  cases i <;> simp only [Instr.dest, Option.some.injEq, reduceCtorEq] at hd <;> subst hd
  case muls | mulw | sat => exact ⟨_, wide (by simpa [Instr.available, Instr.needsWider] using ha)⟩
  all_goals exact ⟨_, complete_wrote _ _ _⟩

/-- A word that decodes runs as its command. -/
theorem runCommand_ok {s : State} {i : Instr} (h : decode s.inp.cmd = .ok i) : runCommand s = exec i s := by
  simp [runCommand, h]

theorem runCommand_ended {s t : State} (h : runCommand s = .next t) : Ended s t := by
  unfold runCommand at h
  split at h
  · exact exec_ended h
  · exact raise_illegalCommand_ended h

/-- On an accepted cycle a clock edge runs the command on the ports. -/
theorem clockEdge_accepted {s : State} (h : s.inp.accepted) : clockEdge s = runCommand s := by
  simp [clockEdge, h.1, h.2]

/-- A step whose next state is known ran the command on an accepted cycle of the stream; what came before it in the stream
was not accepted. -/
theorem step_next {s t : State} (h : step s = .next t) :
    ∃ (skipped : List (PortIn s.cfg)) (x : Regs s.cfg) (p : PortIn s.cfg) (rest : List (PortIn s.cfg)),
      s.stream = skipped ++ p :: rest ∧ (∀ q ∈ skipped, ¬ q.accepted) ∧ p.accepted ∧
      runCommand (s.present (x, p, rest)) = .next t := by
  unfold step at h
  cases hn : nextCommand s.x s.stream with
  | none => rw [hn] at h; cases h
  | some n =>
    obtain ⟨x, p, rest⟩ := n
    obtain ⟨sk, h1, ha, h2, -⟩ := nextCommand_some hn
    rw [hn] at h
    exact ⟨sk, x, p, rest, h1, h2, ha, (clockEdge_accepted (s := s.present (x, p, rest)) ha) ▸ h⟩

/-- A step on a stream whose next cycle is accepted runs the command of that cycle. -/
theorem step_accepted {s : State} {p : PortIn s.cfg} {rest : List (PortIn s.cfg)} (h : s.stream = p :: rest)
    (ha : p.accepted) : step s = runCommand { s with inp := p, stream := rest } := by
  have hn : nextCommand s.x s.stream = some (s.x, p, rest) := by simp [h, nextCommand, ha.1, ha.2]
  unfold step
  rw [hn]
  exact clockEdge_accepted (s := s.present (s.x, p, rest)) ha

end Sys2Proof.Machine
end

