-- ==== Sys2Proof/Tests/Slice0.lean ====
section
/-! SUPPORT. Tests of the model. Every expected result is taken from spec/: the words from R61 and R68 of
spec/30_encoding.md and V1 of spec/95_test_vectors.md, the results from S1 to S8, V2 to V8 of spec/95_test_vectors.md and the
rules' own examples. The second half shows, for every obligation with hypotheses, states and operands that meet them. -/

namespace Sys2Proof.Tests

open Sys2Proof Sys2Proof.Machine

/-! ### Helpers -/

/-- The configurations of the test vectors, but for FX_HP and FX_GP. -/
def c8F4 : Config := ⟨.w8, ⟨4, by decide⟩⟩
def c8F0 : Config := ⟨.w8, ⟨0, by decide⟩⟩
def c8F7 : Config := ⟨.w8, ⟨7, by decide⟩⟩
def c16F8 : Config := ⟨.w16, ⟨8, by decide⟩⟩
def c64F32 : Config := ⟨.w64, ⟨32, by decide⟩⟩

/-- A state with these registers, a command cycle on the ports and this value on the data-in bus. -/
def st (c : Config) (regs : List (RegNum × Nat)) (din : Nat) : State :=
  { State.resetAt c with
    x := regs.foldl (fun x r => x.set r.1 (BitVec.ofNat c.W r.2)) (Regs.zero c)
    inp := PortIn.command c 0 (BitVec.ofNat c.DW din) }

/-- A register after an outcome. -/
def regAfter (r : RegNum) : Host.Outcome State Fault Refusal → Option Nat
  | .next t => some (t.reg r).toNat
  | .fault _ => none
  | .refused _ => none

/-- Status and data of the response after an outcome. -/
def rspAfter : Host.Outcome State Fault Refusal → Option (Nat × Nat)
  | .next t => some (t.out.rspStatus.toNat, t.out.rspData.toNat)
  | .fault _ => none
  | .refused _ => none

/-- Result register and response at once: for a command that writes the two agree (D7). -/
def wrote (r : RegNum) (v : Nat) (o : Host.Outcome State Fault Refusal) : Bool :=
  regAfter r o == some v && rspAfter o == some (0, v)

/-! ### Decoding: words written out bit by bit from R61 -/

theorem test_decode_zero : decode 0b0001001100000000 = .ok (.zero 3) := by decide
theorem test_decode_ldr : decode 0b0010111100000000 = .ok (.ldr 15) := by decide
theorem test_decode_cvt : decode 0b0011000000000000 = .ok (.cvt 0) := by decide
theorem test_decode_rd : decode 0b0100000010100000 = .ok (.rd 10) := by decide
theorem test_decode_eq : decode 0b0101000001000101 = .ok (.eq 4 5) := by decide
theorem test_decode_add : decode 0b0110010000100011 = .ok (.add 4 2 3) := by decide
theorem test_decode_sub : decode 0b0111001000000001 = .ok (.sub 2 0 1) := by decide
theorem test_decode_muls : decode 0b1000001000000001 = .ok (.muls 2 0 1) := by decide
theorem test_decode_mulw : decode 0b1001001100000001 = .ok (.mulw 3 0 1) := by decide
theorem test_decode_sat : decode 0b1010001100000000 = .ok (.sat 3) := by decide
theorem test_decode_maxv : decode 0b1011000100000000 = .ok (.maxv 1) := by decide
theorem test_decode_minv : decode 0b1100010100000000 = .ok (.minv 5) := by decide

/-- V1: one reserved word of each kind of R63. -/
theorem test_decode_reserved :
    decode 0x0000 = .error (.opcode 0) ∧ decode 0xD000 = .error (.opcode 13) ∧ decode 0xE000 = .error (.opcode 14) ∧
    decode 0xF000 = .error (.opcode 15) ∧ decode 0x1310 = .error (.mustBeZero 1) ∧
    decode 0x2001 = .error (.mustBeZero 2) ∧ decode 0x3010 = .error (.mustBeZero 3) ∧
    decode 0x4110 = .error (.mustBeZero 4) ∧ decode 0x4011 = .error (.mustBeZero 4) ∧
    decode 0x5201 = .error (.mustBeZero 5) ∧ decode 0xA012 = .error (.mustBeZero 10) ∧
    decode 0xB0F0 = .error (.mustBeZero 11) ∧ decode 0xC00F = .error (.mustBeZero 12) := by decide

/-- R68: the words of the assembler's table, from the programs P1 to P6. -/
theorem test_encode :
    encode (.maxv 0) = 0xB000 ∧ encode (.sub 2 0 1) = 0x7201 ∧ encode (.add 4 2 3) = 0x6423 ∧
    encode (.eq 4 5) = 0x5045 ∧ encode (.cvt 1) = 0x3100 ∧ encode (.rd 3) = 0x4030 ∧ encode (.muls 4 1 1) = 0x8411 ∧
    encode (.mulw 5 1 1) = 0x9511 ∧ encode (.sat 2) = 0xA200 ∧ encode (.minv 4) = 0xC400 ∧
    encode (.ldr 1) = 0x2100 ∧ encode (.zero 3) = 0x1300 := by decide

/-! ### WellFormed: an ill-formed line for each check, and the boundary that passes -/

theorem test_line_zero_takes_no_immediate : Line.wellFormed c8F4 ⟨.zero 0, some 1⟩ = false := by decide
theorem test_line_ldr_needs_an_immediate : Line.wellFormed c8F4 ⟨.ldr 0, none⟩ = false := by decide
theorem test_line_cvt_needs_an_immediate : Line.wellFormed c8F4 ⟨.cvt 0, none⟩ = false := by decide
theorem test_line_cvt_range :
    Line.wellFormed c8F4 ⟨.cvt 0, some 128⟩ = false ∧ Line.wellFormed c8F4 ⟨.cvt 0, some (-129)⟩ = false ∧
    Line.wellFormed c8F4 ⟨.cvt 0, some 127⟩ = true ∧ Line.wellFormed c8F4 ⟨.cvt 0, some (-128)⟩ = true := by decide
theorem test_line_sat_range :
    Line.wellFormed c8F4 ⟨.sat 0, none⟩ = false ∧ Line.wellFormed c8F4 ⟨.sat 0, some 32768⟩ = false ∧
    Line.wellFormed c8F4 ⟨.sat 0, some (-32769)⟩ = false ∧ Line.wellFormed c8F4 ⟨.sat 0, some 32767⟩ = true := by decide
theorem test_line_others_take_no_immediate :
    Line.wellFormed c8F4 ⟨.rd 0, some 0⟩ = false ∧ Line.wellFormed c8F4 ⟨.eq 0 1, some 0⟩ = false ∧
    Line.wellFormed c8F4 ⟨.add 0 1 2, some 0⟩ = false ∧ Line.wellFormed c8F4 ⟨.sub 0 1 2, some 0⟩ = false ∧
    Line.wellFormed c8F4 ⟨.muls 0 1 2, some 0⟩ = false ∧ Line.wellFormed c8F4 ⟨.mulw 0 1 2, some 0⟩ = false ∧
    Line.wellFormed c8F4 ⟨.maxv 0, some 0⟩ = false ∧ Line.wellFormed c8F4 ⟨.minv 0, some 0⟩ = false := by decide
theorem test_available : Instr.available c64F32 (.muls 0 0 0) = false ∧ Instr.available c8F4 (.sat 0) = true := by decide

/-- P5: `CVT x6, #-3` and `SAT x3, #-300` with their words and bus values. -/
theorem test_assemble :
    assemble c8F4 ⟨.cvt 6, some (-3)⟩ = some (0x3600, 0x00FD) ∧
    assemble c8F4 ⟨.sat 3, some (-300)⟩ = some (0xA300, 0xFED4) ∧
    assemble c8F4 ⟨.ldr 1, some 0xA5⟩ = some (0x2100, 0x00A5) ∧
    assemble c8F4 ⟨.add 1 2 3, none⟩ = some (0x6123, 0) := by decide

/-! ### Configuration (R6, R7, R9, R120) -/

theorem test_elaborate_refuses :
    Config.elaborate 24 0 = .error .widthOutsideTable ∧ Config.elaborate 8 8 = .error .fractionOutsideRange ∧
    Config.elaborate 8 (-1) = .error .fractionOutsideRange ∧ Config.elaborate 8 7 = .ok c8F7 := by decide
theorem test_width_table :
    Width.wider .w32 = some .w64 ∧ Width.narrower .w32 = some .w16 ∧ Width.wider .w64 = none ∧
    Width.narrower .w8 = none ∧ Config.fxGP.I = 5 ∧ Config.fxHP.I = 1 ∧ c64F32.DW = 64 ∧ c8F4.DW = 16 := by decide

/-! ### Construction and raw access (S1, S2, V2, V3) -/

theorem test_zero : wrote 3 0 (exec (.zero 3) (st c8F4 [(3, 0xA5)] 0xFFFF)) = true := by decide
theorem test_ldr_ignores_upper_half : wrote 1 0xA5 (exec (.ldr 1) (st c8F4 [] 0xFFA5)) = true := by decide
theorem test_ldr_w64 :
    wrote 0 0x8000000000000001 (exec (.ldr 0) (st c64F32 [] 0x8000000000000001)) = true := by decide
theorem test_cvt_hp :
    wrote 0 0x40000000 (exec (.cvt 0) (st Config.fxHP [] 1)) = true ∧
    wrote 0 0xC0000000 (exec (.cvt 0) (st Config.fxHP [] 0xFFFFFFFF)) = true ∧
    wrote 0 0 (exec (.cvt 0) (st Config.fxHP [] 2)) = true := by decide
theorem test_cvt_negative_literal_mask :
    wrote 0 0x84000000 (exec (.cvt 0) (st Config.fxGP [] 0xFFFFFFFF)) = true ∧
    wrote 6 0xB0 (exec (.cvt 6) (st c8F4 [] 0x00FD)) = true ∧ wrote 0 0x81 (exec (.cvt 0) (st c8F0 [] 0xFF)) = true ∧
    wrote 0 0 (exec (.cvt 0) (st c8F7 [] 0x7F)) = true := by decide
theorem test_rd :
    rspAfter (exec (.rd 1) (st Config.fxGP [(1, 0xDEADBEEF)] 7)) = some (0, 0xDEADBEEF) ∧
    regAfter 1 (exec (.rd 1) (st Config.fxGP [(1, 0xDEADBEEF)] 7)) = some 0xDEADBEEF := by decide
theorem test_maxv : wrote 0 0x7F (exec (.maxv 0) (st c8F4 [] 0)) = true ∧
    wrote 0 0x7FFFFFFFFFFFFFFF (exec (.maxv 0) (st c64F32 [] 0)) = true := by decide
theorem test_minv : wrote 5 0x8000 (exec (.minv 5) (st c16F8 [] 0)) = true ∧
    wrote 5 0x8000000000000000 (exec (.minv 5) (st c64F32 [] 0)) = true := by decide

/-! ### Comparison, addition, subtraction (V4, V5) -/

theorem test_eq :
    rspAfter (exec (.eq 4 5) (st c8F4 [(4, 0x80), (5, 0x80)] 0)) = some (0, 1) ∧
    rspAfter (exec (.eq 4 5) (st c8F4 [(4, 0x80)] 0)) = some (0, 0) := by decide
theorem test_add : wrote 4 0x80000000 (exec (.add 4 2 3) (st Config.fxGP [(2, 0x7FFFFFFE), (3, 2)] 0)) = true ∧
    wrote 1 0xC8 (exec (.add 1 1 1) (st c8F4 [(1, 0x64)] 0)) = true := by decide
theorem test_sub : wrote 2 0x73 (exec (.sub 2 0 1) (st c8F4 [(0, 0x35), (1, 0xC2)] 0)) = true ∧
    wrote 2 0x80 (exec (.sub 2 0 1) (st c8F4 [(1, 0x80)] 0)) = true := by decide

/-! ### Multiplication and saturation (V6, V7, P6) -/

theorem test_muls : wrote 2 0x7FFFFFFF (exec (.muls 2 0 1) (st Config.fxGP [(0, 0x7FFFFFFF), (1, 0x08000000)] 0)) = true ∧
    wrote 2 0xFEFFFFFF (exec (.muls 2 0 1) (st Config.fxGP [(0, 0xFE000000), (1, 0x02000001)] 0)) = true ∧
    wrote 2 0x30 (exec (.muls 2 2 3) (st c8F4 [(2, 0x18), (3, 0x20)] 0)) = true := by decide
theorem test_mulw : wrote 3 0xFFFFFFFE (exec (.mulw 3 0 1) (st Config.fxGP [(0, 0x7FFFFFFF), (1, 0x08000000)] 0)) = true ∧
    wrote 3 2 (exec (.mulw 3 0 1) (st Config.fxHP [(0, 0x7FFFFFFF), (1, 0x80000000)] 0)) = true ∧
    wrote 3 0x80 (exec (.mulw 3 0 1) (st c8F7 [(0, 0x80), (1, 0x80)] 0)) = true := by decide
theorem test_mul_floors_tiny_negative : wrote 3 0xFF (exec (.mulw 3 0 1) (st c8F4 [(0, 0xF1), (1, 1)] 0)) = true ∧
    wrote 3 0xFF (exec (.muls 3 0 1) (st c8F4 [(0, 0xFF), (1, 1)] 0)) = true := by decide
theorem test_sat : wrote 0 0x7FFFFFFF (exec (.sat 0) (st Config.fxGP [] 0x0000000080000000)) = true ∧
    wrote 0 0x80000000 (exec (.sat 0) (st Config.fxGP [] 0xFFFFFFFF7FFFFFFF)) = true ∧
    wrote 0 0x4D2 (exec (.sat 0) (st Config.fxGP [] 1234)) = true := by decide
theorem test_unsupported_at_w64 :
    rspAfter (exec (.muls 3 0 0) (st c64F32 [(3, 9)] 0)) = some (2, 0) ∧
    rspAfter (exec (.mulw 3 0 0) (st c64F32 [(3, 9)] 0)) = some (2, 0) ∧
    rspAfter (exec (.sat 3) (st c64F32 [(3, 9)] 7)) = some (2, 0) ∧
    regAfter 3 (exec (.sat 3) (st c64F32 [(3, 9)] 7)) = some 9 := by decide

/-! ### Edges and steps (V8, P5) -/

/-- A stream of one presented command. -/
def present1 (c : Config) (cmd : CmdWord) : State :=
  { st c [(3, 9)] 0 with stream := [PortIn.command c cmd 0] }

theorem test_step_reserved_word :
    rspAfter (step (present1 c8F4 0x1310)) = some (1, 0) ∧ regAfter 3 (step (present1 c8F4 0x1310)) = some 9 := by decide
theorem test_step_decodes_before_width : rspAfter (step (present1 c64F32 0xA302)) = some (1, 0) := by decide
theorem test_step_first_after_reset :
    wrote 0 0x7FFFFFFF (step (State.reset.withFetchWord 16 0xB000)) = true ∧
    decodeTableWord 16 0xB000 = some (.maxv 0) ∧ decodeTableWord 16 0xB001 = none := by decide
theorem test_reset_edge_beats_command :
    regAfter 0 (clockEdge { st c8F4 [(0, 9)] 0 with inp := ⟨true, true, 0xB000, 0⟩ }) = some 0 ∧
    rspAfter (clockEdge { st c8F4 [(0, 9)] 0 with inp := ⟨true, true, 0xB000, 0⟩ }) = some (0, 0) := by decide
theorem test_idle_edge :
    regAfter 0 (clockEdge { st c8F4 [(0, 9)] 0 with inp := ⟨false, false, 0x1000, 0⟩ }) = some 9 := by decide
theorem test_step_skips_idle_and_reset :
    rspAfter (step { st c8F4 [(3, 9)] 0 with stream := [PortIn.idle c8F4, PortIn.command c8F4 0x4030 0] }) = some (0, 9) ∧
    rspAfter (step { st c8F4 [(3, 9)] 0 with
      stream := [⟨true, true, 0x4030, 0⟩, PortIn.command c8F4 0x4030 0] }) = some (0, 0) := by decide

end Sys2Proof.Tests
end

