-- ==== Sys2Proof/Tests/Witnesses.lean ====
section
/-! SUPPORT. For every obligation with hypotheses, concrete states and operands that meet all of them together, clause by
clause and at the boundary values of the clauses' ranges. -/

namespace Sys2Proof.Tests

open Sys2Proof Sys2Proof.Machine

/-- A state whose host drives these cycles. -/
def drives (c : Config) (cycles : List (PortIn c)) : State := { State.resetAt c with stream := cycles }

/-- The two registers an arithmetic witness needs, at W = 8. -/
def two (c : Config) (x y : Nat) : State := st c [(1, x), (2, y)] 0

/-! ### Encoding -/

theorem witness_EncodeOfDecode : decode 0x6423 = .ok (.add 4 2 3) := by decide

theorem witness_MaskAndMatchSelectTheCommand :
    decode 0x6423 = .ok (.add 4 2 3) ∧ (0x6423 : CmdWord) &&& (Instr.add 0 0 0).mask = (Instr.add 0 0 0).matchWord ∧
    (0x6423 : CmdWord) &&& (Instr.add 1 1 1).mask = (Instr.add 1 1 1).matchWord := by decide

theorem witness_ReservedWordsAreExactlyThese :
    (drives c8F4 []).inp.rst = false ∧
    ∃ s : State, s.inp.accepted ∧ decode s.inp.cmd = .error (.opcode 0) :=
  ⟨rfl, { State.resetAt c8F4 with inp := PortIn.command c8F4 0x0123 0 }, by decide, by decide⟩

/-- The ends of the ranges of CVT and SAT and the first numbers outside them, and a command of each other kind. -/
theorem witness_AssemblerDeliversTheOperand :
    (-2 ^ (c8F4.W - 1) ≤ (-128 : Int) ∧ (-128 : Int) ≤ 2 ^ (c8F4.W - 1) - 1) ∧
    (-2 ^ (c8F4.W - 1) ≤ (127 : Int) ∧ (127 : Int) ≤ 2 ^ (c8F4.W - 1) - 1) ∧
    ¬ (128 : Int) ≤ 2 ^ (c8F4.W - 1) - 1 ∧ ¬ -2 ^ (c8F4.W - 1) ≤ (-129 : Int) ∧
    c8F4.W ≠ 64 ∧ (-2 ^ (2 * c8F4.W - 1) ≤ (32767 : Int) ∧ (32767 : Int) ≤ 2 ^ (2 * c8F4.W - 1) - 1) ∧
    ¬ (32768 : Int) ≤ 2 ^ (2 * c8F4.W - 1) - 1 ∧
    c64F32.W = 64 ∧ (-2 ^ (64 - 1) ≤ (2 ^ 63 - 1 : Int) ∧ (2 ^ 63 - 1 : Int) ≤ 2 ^ (64 - 1) - 1) ∧
    ¬ (2 ^ 63 : Int) ≤ 2 ^ (64 - 1) - 1 ∧
    (∀ d, Instr.add 1 2 3 ≠ .ldr d) ∧ (∀ d, Instr.add 1 2 3 ≠ .cvt d) ∧ (∀ d, Instr.add 1 2 3 ≠ .sat d) := by decide

/-! ### Configuration -/

theorem witness_ElaborationAcceptsExactlyTheLegalPairs :
    (((8 : Int) = 8 ∨ (8 : Int) = 16 ∨ (8 : Int) = 32 ∨ (8 : Int) = 64) ∧ (0 : Int) ≤ 7 ∧ (7 : Int) ≤ 8 - 1) ∧
    ¬ (((8 : Int) = 8 ∨ (8 : Int) = 16 ∨ (8 : Int) = 32 ∨ (8 : Int) = 64) ∧ (0 : Int) ≤ 8 ∧ (8 : Int) ≤ 8 - 1) := by decide

theorem witness_DerivedConstantsOfEveryConfiguration : c8F4.W ≠ 64 ∧ c64F32.W = 64 := by decide

/-! ### Edges and steps -/

theorem witness_ResetEdgeClearsAndAnswersNothing :
    ({ st c8F4 [(0, 9)] 0 with inp := ⟨true, true, 0xB000, 0⟩ } : State).inp.rst = true := by decide

theorem witness_IdleEdgeChangesNothing :
    ({ st c8F4 [(0, 9)] 0 with inp := ⟨false, false, 0xB000, 0⟩ } : State).inp.rst = false ∧
    ({ st c8F4 [(0, 9)] 0 with inp := ⟨false, false, 0xB000, 0⟩ } : State).inp.cmdValid = false := by decide

theorem witness_CommandEdgeRunsTheCommand :
    ∃ (s : State) (i : Instr), s.inp.rst = false ∧ s.inp.cmdValid = true ∧ decode s.inp.cmd = .ok i :=
  ⟨{ State.resetAt c8F4 with inp := PortIn.command c8F4 0x6423 0 }, .add 4 2 3, by decide⟩

theorem witness_StepRunsTheDecodedCommand :
    ∃ (s : State) (p : PortIn s.cfg) (rest : List (PortIn s.cfg)) (i : Instr),
      s.stream = p :: rest ∧ p.rst = false ∧ p.cmdValid = true ∧ decode p.cmd = .ok i :=
  ⟨drives c8F4 [PortIn.command c8F4 0x6423 0], PortIn.command c8F4 0x6423 0, [], .add 4 2 3, by decide⟩

theorem witness_ReservedWordRaisesIllegalCommand :
    ∃ (s : State) (p : PortIn s.cfg) (rest : List (PortIn s.cfg)) (e : Reserved),
      s.stream = p :: rest ∧ p.rst = false ∧ p.cmdValid = true ∧ decode p.cmd = .error e :=
  ⟨drives c8F4 [PortIn.command c8F4 0x1310 0], PortIn.command c8F4 0x1310 0, [], .mustBeZero 1, by decide⟩

theorem witness_DecodingComesBeforeTheWidth :
    (∃ s : State, s.cfg.W = 64 ∧ s.inp.cmd = 0xA012 ∧ s.inp.rst = false ∧ s.inp.cmdValid = true) ∧
    (∃ s : State, s.cfg.W = 64 ∧ s.inp.cmd = 0xA012 ∧ s.inp.rst = true) :=
  ⟨⟨{ State.resetAt c64F32 with inp := PortIn.command c64F32 0xA012 0 }, by decide⟩,
   ⟨{ State.resetAt c64F32 with inp := ⟨true, true, 0xA012, 0⟩ }, by decide⟩⟩

theorem witness_CyclesBeforeACommandGetNoStep :
    (∃ (s : State) (p : PortIn s.cfg) (rest : List (PortIn s.cfg)),
      s.stream = p :: rest ∧ p.rst = false ∧ p.cmdValid = false) ∧
    (∃ (s : State) (p : PortIn s.cfg) (rest : List (PortIn s.cfg)), s.stream = p :: rest ∧ p.rst = true) :=
  ⟨⟨drives c8F4 [PortIn.idle c8F4], PortIn.idle c8F4, [], by decide⟩,
   ⟨drives c8F4 [⟨true, true, 0x1000, 0⟩], ⟨true, true, 0x1000, 0⟩, [], by decide⟩⟩

theorem witness_StepAnswersWhileCommandsCome :
    (∃ p ∈ (drives c8F4 [PortIn.idle c8F4, PortIn.command c8F4 0x1000 0]).stream, p.rst = false ∧ p.cmdValid = true) ∧
    (∀ p ∈ (drives c8F4 [PortIn.idle c8F4]).stream, ¬ (p.rst = false ∧ p.cmdValid = true)) := by decide

theorem witness_StepGivesOneResponseInOrder :
    ∃ s t : State, step s = .next t := ⟨drives c8F4 [PortIn.command c8F4 0x1000 0], _, rfl⟩

theorem witness_StepKeepsOutputsLegal :
    ∃ s t : State, s.Safe ∧ step s = .next t := ⟨drives c8F4 [PortIn.command c8F4 0x1000 0], _, by decide, rfl⟩

theorem witness_ClockEdgeKeepsOutputsLegal :
    ∃ s t : State, s.Safe ∧ clockEdge s = .next t := ⟨State.resetAt c8F4, _, by decide, rfl⟩

theorem witness_ResponseIsValidExactlyForCommands :
    ∃ s t : State, clockEdge s = .next t := ⟨st c8F4 [] 0, _, rfl⟩

/-- A saturating product, read by the command after it as RD and as a source that is the destination too. -/
theorem witness_NextCommandSeesTheWrite :
    (∃ (s : State) (p q : PortIn s.cfg) (rest : List (PortIn s.cfg)) (i j : Instr) (d : RegNum),
      s.stream = p :: q :: rest ∧ p.accepted ∧ q.accepted ∧ decode p.cmd = .ok i ∧ decode q.cmd = .ok j ∧
      i.dest = some d ∧ i.available s.cfg = true ∧ j = .rd d) ∧
    (∃ (s : State) (p q : PortIn s.cfg) (rest : List (PortIn s.cfg)) (i j : Instr) (d : RegNum),
      s.stream = p :: q :: rest ∧ p.accepted ∧ q.accepted ∧ decode p.cmd = .ok i ∧ decode q.cmd = .ok j ∧
      i.dest = some d ∧ i.available s.cfg = true ∧ j = .add d d d) :=
  ⟨⟨drives c8F4 [PortIn.command c8F4 0x8123 0, PortIn.command c8F4 0x4010 0],
    PortIn.command c8F4 0x8123 0, PortIn.command c8F4 0x4010 0, [], .muls 1 2 3, .rd 1, 1, by decide⟩,
   ⟨drives c64F32 [PortIn.command c64F32 0x2100 0xA5, PortIn.command c64F32 0x6111 0],
    PortIn.command c64F32 0x2100 0xA5, PortIn.command c64F32 0x6111 0, [], .ldr 1, .add 1 1 1, 1, by decide⟩⟩

theorem witness_ExceptionsLeaveNoTrace :
    ∃ (s : State) (p q : PortIn s.cfg) (rest : List (PortIn s.cfg)) (e f : Reserved),
      s.stream = p :: q :: rest ∧ p.accepted ∧ q.accepted ∧ decode p.cmd = .error e ∧ decode q.cmd = .error f :=
  ⟨drives c8F4 [PortIn.command c8F4 0x0000 0, PortIn.command c8F4 0x5201 0],
   PortIn.command c8F4 0x0000 0, PortIn.command c8F4 0x5201 0, [], .opcode 0, .mustBeZero 5, by decide⟩

/-! ### All commands -/

theorem witness_CommandsWriteTheirDestinationOnly :
    (∃ t, exec (.add 3 1 2) (two c8F4 5 6) = .next t) ∧ Instr.dest (.add 3 1 2) ≠ some 4 ∧
    Instr.dest (.add 3 1 2) = some 3 ∧ (∃ t, exec (.muls 3 1 2) (two c64F32 5 6) = .next t) :=
  ⟨⟨_, rfl⟩, by decide, rfl, ⟨_, rfl⟩⟩

theorem witness_ThereIsNoHiddenState :
    (⟨true, false, 0xFFFF, 7⟩ : PortIn c8F4).din = (st c8F4 [(1, 5)] 7).inp.din := rfl

theorem witness_UnusedInputBitsAreIgnored :
    (PortIn.command c8F4 0 0xFFA5).din.toNat % 2 ^ c8F4.W = (st c8F4 [] 0x00A5).inp.din.toNat % 2 ^ c8F4.W ∧
    Instr.usesDin (.ldr 1) = true ∧ (¬ ∃ d, Instr.ldr 1 = .sat d) ∧ Instr.usesDin (.add 1 2 3) = false ∧
    (PortIn.command c8F4 0 0x00A5).din = (st c8F4 [] 0x00A5).inp.din ∧ ∃ d, Instr.sat 1 = .sat d :=
  ⟨by decide, rfl, by simp, rfl, rfl, 1, rfl⟩

theorem witness_UnsupportedOpExactlyAtTheTop :
    (two c64F32 1 1).cfg.W = 64 ∧ (∃ t, exec (.muls 3 1 2) (two c64F32 1 1) = .next t) ∧
    ∃ t, exec (.add 3 1 2) (two c64F32 1 1) = .next t :=
  ⟨rfl, ⟨_, rfl⟩, ⟨_, rfl⟩⟩

theorem witness_AvailabilityDecidesTheStatus :
    ((∃ t, exec (.sat 3) (st c8F4 [] 1) = .next t) ∧ Instr.available c8F4 (.sat 3) = true) ∧
    ((∃ t, exec (.sat 3) (st c64F32 [] 1) = .next t) ∧ Instr.available c64F32 (.sat 3) = false) :=
  ⟨⟨⟨_, rfl⟩, rfl⟩, ⟨⟨_, rfl⟩, rfl⟩⟩

/-! ### CVT: the operand as a signed number, at the boundaries of the clauses -/

/-- `sval_W(din[W-1:0])`. -/
def operand (s : State) : Int := (s.inp.din.extractLsb' 0 s.cfg.W).toInt

theorem witness_CvtMasksShiftsAndNegates :
    0 ≤ operand (st c8F4 [] 0) ∧ operand (st c8F4 [] 0xFF) < 0 ∧ operand (st c8F4 [] 0x80) < 0 := by decide

theorem witness_CvtIsExactInRange :
    (0 ≤ operand (st c8F4 [] 0) ∧ operand (st c8F4 [] 0) ≤ 2 ^ c8F4.I - 1) ∧
    (0 ≤ operand (st c8F4 [] 7) ∧ operand (st c8F4 [] 7) ≤ 2 ^ c8F4.I - 1) := by decide

theorem witness_CvtTruncatesToZero :
    operand (st c8F4 [] 8) % 2 ^ c8F4.I = 0 ∧ c8F7.I = 0 ∧ operand (st c8F4 [] 0x80) = -2 ^ (c8F4.W - 1) := by decide

theorem witness_CvtReadingsAgreeExactlyWhen :
    (operand (st c8F4 [] 0xFC) < 0 ∧ (2 : Int) ^ c8F4.I ∣ 2 * operand (st c8F4 [] 0xFC)) ∧
    (operand (st c8F4 [] 0xFF) < 0 ∧ ¬ (2 : Int) ^ c8F4.I ∣ 2 * operand (st c8F4 [] 0xFF)) := by decide

/-! ### Comparison, addition, subtraction -/

theorem witness_EqComparesEveryBit :
    (∀ k, k < c8F4.W → (two c8F4 0x80 0x80).x[1].getLsbD k = (two c8F4 0x80 0x80).x[2].getLsbD k) ∧
    (∃ k, k < c8F4.W ∧ (two c8F4 0x80 0x00).x[1].getLsbD k ≠ (two c8F4 0x80 0x00).x[2].getLsbD k) :=
  ⟨by decide, 7, by decide, by decide⟩

/-- The exact signed sum and difference of the two registers. -/
def sum (s : State) : Int := s.x[1].toInt + s.x[2].toInt
def diff (s : State) : Int := s.x[1].toInt - s.x[2].toInt

theorem witness_AddWrapsSilently :
    sum (two c8F4 0x7E 0x01) = 127 ∧ 2 ^ (c8F4.W - 1) - 1 < sum (two c8F4 0x7F 0x01) ∧
    sum (two c8F4 0x81 0xFF) = -128 ∧ sum (two c8F4 0x80 0xFF) < -2 ^ (c8F4.W - 1) := by decide

theorem witness_SubWrapsSilently :
    diff (two c8F4 0x7E 0xFF) = 127 ∧ 2 ^ (c8F4.W - 1) - 1 < diff (two c8F4 0x7F 0xFF) ∧
    diff (two c8F4 0x81 0x01) = -128 ∧ diff (two c8F4 0x80 0x01) < -2 ^ (c8F4.W - 1) := by decide

theorem witness_SubUndoesAdd : (3 : RegNum) ≠ 2 ∧ (1 : RegNum) ≠ 2 := by decide
theorem witness_AddIsCommutativeAndAssociative : (4 : RegNum) ≠ 3 ∧ (5 : RegNum) ≠ 1 := by decide

theorem witness_AddSubCornerCases :
    (two c8F4 5 0).x[2] = 0 ∧ (two c8F4 0 0x80).x[1] = 0 ∧ (two c8F4 0 0x80).x[2] = BitVec.intMin c8F4.W :=
  ⟨rfl, rfl, rfl⟩

/-! ### Multiplication and saturation: the shifted product at the boundaries -/

/-- `Q` of the two registers. -/
def shifted (s : State) : Int := (s.x[1].toInt * s.x[2].toInt).fdiv (2 ^ s.cfg.F)

theorem witness_MulsSaturates :
    (two c64F32 1 1).cfg.W = 64 ∧ (two c8F4 1 1).cfg.W ≠ 64 ∧ shifted (two c8F4 0x40 0x20) = 2 ^ (c8F4.W - 1) ∧
    shifted (two c8F4 0x7F 0x10) = 2 ^ (c8F4.W - 1) - 1 ∧ shifted (two c8F4 0x80 0x10) = -2 ^ (c8F4.W - 1) ∧
    shifted (two c8F0 0xF0 0x09) < -2 ^ (c8F0.W - 1) := by decide

theorem witness_MulwKeepsTheLowBits :
    (two c64F32 1 1).cfg.W = 64 ∧ (two c8F4 0x7F 0x10).cfg.W ≠ 64 ∧
    shifted (two c8F4 0x7F 0x10) = 2 ^ (c8F4.W - 1) - 1 ∧ shifted (two c8F4 0x80 0x10) = -2 ^ (c8F4.W - 1) := by decide

theorem witness_MulsRefinesTheWideDatapath : (two c8F4 0x80 0x80).cfg.W ≠ 64 := by decide

theorem witness_MultiplicationRoundsDown :
    (two c8F4 0x7F 0x10).cfg.W ≠ 64 ∧ shifted (two c8F4 0x7F 0x10) = 2 ^ (c8F4.W - 1) - 1 ∧
    shifted (two c8F4 0x80 0x10) = -2 ^ (c8F4.W - 1) := by decide

/-- In range, above range without and with the coincidence of R109 (a). -/
theorem witness_PoliciesAgreeExactlyWhen :
    (two c8F0 9 71).cfg.W ≠ 64 ∧ shifted (two c8F0 9 71) % 2 ^ c8F0.W = 2 ^ (c8F0.W - 1) - 1 ∧
    shifted (two c8F0 0x10 0x08) = 128 ∧ shifted (two c8F0 0xF0 0x18) % 2 ^ c8F0.W = 2 ^ (c8F0.W - 1) ∧
    shifted (two c8F0 0xF0 0x18) < -2 ^ (c8F0.W - 1) := by decide

theorem witness_MultiplicationUnits :
    (two c8F4 5 0).cfg.W ≠ 64 ∧ (two c8F4 5 0).x[2] = 0 ∧ 1 ≤ c8F4.I ∧
    (two c8F4 5 16).x[2] = BitVec.ofNat c8F4.W (2 ^ c8F4.F) :=
  ⟨by decide, rfl, by decide, rfl⟩

theorem witness_MulsKeepsTheSign : (two c8F4 0xFF 0x01).cfg.W ≠ 64 := by decide

theorem witness_MinimumTimesMinimum :
    (two c8F4 0x80 0x80).x[1].toInt = -2 ^ (c8F4.W - 1) ∧ (two c8F4 0x80 0x80).x[2].toInt = -2 ^ (c8F4.W - 1) ∧
    c8F4.F + 2 ≤ c8F4.W ∧ (two c8F7 0x80 0x80).x[1].toInt = -2 ^ (c8F7.W - 1) ∧
    (two c8F7 0x80 0x80).x[2].toInt = -2 ^ (c8F7.W - 1) ∧ c8F7.F + 1 = c8F7.W ∧
    (two c8F7 0x80 0x80).x[2].toInt = -2 ^ c8F7.F ∧ (two c8F4 0x80 0xF0).x[2].toInt = -2 ^ c8F4.F := by decide

theorem witness_ClampLaws :
    (2 : Int) ^ (8 - 1) - 1 < 128 ∧ (-129 : Int) < -2 ^ (8 - 1) ∧ -(2 : Int) ^ (8 - 1) ≤ -128 ∧
    (127 : Int) ≤ 2 ^ (8 - 1) - 1 ∧ (127 : Int) ≤ 128 := by decide

theorem witness_SatClampsTheWholeBus :
    (st c64F32 [] 7).cfg.W = 64 ∧ (st c8F4 [] 0x80).cfg.W ≠ 64 ∧ (st c8F4 [] 0x80).inp.din.toInt = 128 ∧
    (st c8F4 [] 0x7F).inp.din.toInt = 127 ∧ (st c8F4 [] 0xFF80).inp.din.toInt = -128 ∧
    (st c8F4 [] 0xFF7F).inp.din.toInt = -129 := by decide

theorem witness_SatIsLdrInRange :
    (st c8F4 [] 0xFF80).cfg.W ≠ 64 ∧ -2 ^ (c8F4.W - 1) ≤ (st c8F4 [] 0xFF80).inp.din.toInt ∧
    (st c8F4 [] 0xFF80).inp.din.toInt ≤ 2 ^ (c8F4.W - 1) - 1 := by decide

theorem witness_MulsIsSatOfTheProduct :
    (two c8F4 0x80 0x80).cfg.W ≠ 64 ∧
    (PortIn.command c8F4 0 1024).din = BitVec.ofInt c8F4.DW (shifted (two c8F4 0x80 0x80)) := by decide

end Sys2Proof.Tests
end

/-! ### Reset and independence (spec/10_state.md R29, R31) -/

namespace Sys2Proof.Machine

/-- Settles O10: the state after reset holds the cleared file, whose registers all read zero. -/
theorem resetClearsEveryRegister : Obligations.ResetClearsEveryRegister := fun c r => Regs.zero_get c r

/-- The state with everything replaced that is neither configuration nor register: the input ports, the output ports, what
the host drives next and the responses given. -/
def State.withSurroundings (s : State) (inp : PortIn s.cfg) (out : PortOut s.cfg) (stream : List (PortIn s.cfg))
    (responses : List (Response s.cfg)) : State :=
  { s with inp := inp, out := out, stream := stream, responses := responses }

/-- Two outcomes, `o` from the state `s` and `o'` from `s` with other surroundings, end with the same registers and the
same response, each in its own surroundings. The old output ports play no part, for the response replaces them. -/
def EndAlike (s : State) (inp : PortIn s.cfg) (stream : List (PortIn s.cfg)) (responses : List (Response s.cfg))
    (o o' : Host.Outcome State Fault Refusal) : Prop :=
  ∃ (y : Regs s.cfg) (r : Response s.cfg),
    o = .next { s with x := y, out := r.ports, responses := s.responses ++ [r] } ∧
    o' = .next { s with x := y, inp := inp, out := r.ports, stream := stream, responses := responses ++ [r] }

section
variable {s : State} {inp : PortIn s.cfg} {out : PortOut s.cfg} {stream : List (PortIn s.cfg)}
  {responses : List (Response s.cfg)}

theorem complete_endAlike (d : RegNum) {v v' : Value s.cfg} (hv : v' = v) :
    EndAlike s inp stream responses (complete s d v)
      (complete (s.withSurroundings inp out stream responses) d v') := by
  subst hv
  exact ⟨s.x.set d v', Response.ok v', rfl, rfl⟩

theorem answer_endAlike (v : Value s.cfg) :
    EndAlike s inp stream responses (answer s v) (answer (s.withSurroundings inp out stream responses) v) :=
  ⟨s.x, Response.ok v, rfl, rfl⟩

theorem raise_endAlike (e : Exception) :
    EndAlike s inp stream responses (raise s e) (raise (s.withSurroundings inp out stream responses) e) :=
  ⟨s.x, e.response s.cfg, rfl, rfl⟩

/-- The width is configuration, so both runs raise UnsupportedOp or both go on. -/
theorem withWider_endAlike {k k' : Host.Outcome State Fault Refusal} (hk : EndAlike s inp stream responses k k') :
    EndAlike s inp stream responses (withWider s k)
      (withWider (s.withSurroundings inp out stream responses) k') := by
  by_cases hw : s.cfg.W = 64
  · rw [withWider_of_eq hw, withWider_of_eq (s := s.withSurroundings inp out stream responses) hw]
    exact raise_endAlike .unsupportedOp
  · rwa [withWider_of_ne hw, withWider_of_ne (s := s.withSurroundings inp out stream responses) hw]

/-- All that a command reads of its surroundings is its operand on the data-in bus: the low W bits for LDR and CVT, the whole
bus for SAT (R58), nothing for the other commands. -/
theorem exec_endAlike (i : Instr)
    (hlow : i.usesDin = true → dinLow (s.withSurroundings inp out stream responses) = dinLow s)
    (hwide : (∃ d, i = .sat d) → dinWide (s.withSurroundings inp out stream responses) = dinWide s) :
    EndAlike s inp stream responses (exec i s) (exec i (s.withSurroundings inp out stream responses)) := by
  cases i with
  | ldr d => exact complete_endAlike d (hlow rfl)
  | cvt d => exact complete_endAlike d (congrArg (cvtValue s.cfg) (hlow rfl))
  | sat d =>
    exact withWider_endAlike
      (complete_endAlike d (congrArg (fun z => bits s.cfg.W (clamp s.cfg.W z)) (hwide ⟨d, rfl⟩)))
  | muls d a b => exact withWider_endAlike (complete_endAlike d rfl)
  | mulw d a b => exact withWider_endAlike (complete_endAlike d rfl)
  | rd a => exact answer_endAlike (s.reg a)
  | eq a b => exact answer_endAlike (bits s.cfg.W (if s.reg a = s.reg b then 1 else 0))
  | zero d => exact complete_endAlike d rfl
  | add d a b => exact complete_endAlike d rfl
  | sub d a b => exact complete_endAlike d rfl
  | maxv d => exact complete_endAlike d rfl
  | minv d => exact complete_endAlike d rfl

end

/-- Settles O29: with an equal data-in bus the operand is equal, and a command reads nothing else of its surroundings. -/
theorem thereIsNoHiddenState : Obligations.ThereIsNoHiddenState := by
  intro i s inp out stream responses hdin
  exact exec_endAlike (out := out) i (fun _ => congrArg (·.setWidth s.cfg.W) hdin) (fun _ => congrArg sval hdin)

end Sys2Proof.Machine

/-! ### The rows of the command table (spec/30_encoding.md R61) -/

namespace Sys2Proof

/-! The decoder inverts the encoder: one pair of lemmas per format of R57, then the twelve commands. -/

section
variable {op : Fin 16} {w : CmdWord} {i : Instr}

theorem decodeD_packWord (k : RegNum → Instr) (d : RegNum) : decodeD k (packWord op d 0 0) = .ok (k d) := by
  simp [decodeD, dField_packWord, aField_packWord, bField_packWord]

theorem decodeA_packWord (k : RegNum → Instr) (a : RegNum) : decodeA k (packWord op 0 a 0) = .ok (k a) := by
  simp [decodeA, dField_packWord, aField_packWord, bField_packWord]

theorem decodeC_packWord (k : RegNum → RegNum → Instr) (a b : RegNum) :
    decodeC k (packWord op 0 a b) = .ok (k a b) := by
  simp [decodeC, dField_packWord, aField_packWord, bField_packWord]

theorem decodeR3_packWord (k : RegNum → RegNum → RegNum → Instr) (d a b : RegNum) :
    decodeR3 k (packWord op d a b) = .ok (k d a b) := by
  simp [decodeR3, dField_packWord, aField_packWord, bField_packWord]

theorem encode_of_decodeD {k : RegNum → Instr} (hop : opField w = op) (hk : ∀ d, encode (k d) = packWord op d 0 0)
    (h : decodeD k w = .ok i) : encode i = w := by
  unfold decodeD at h
  split at h
  next hzero =>
    cases h
    simpa [hop, hzero, hk] using packWord_fields w
  next => cases h

theorem encode_of_decodeA {k : RegNum → Instr} (hop : opField w = op) (hk : ∀ a, encode (k a) = packWord op 0 a 0)
    (h : decodeA k w = .ok i) : encode i = w := by
  unfold decodeA at h
  split at h
  next hzero =>
    cases h
    simpa [hop, hzero, hk] using packWord_fields w
  next => cases h

theorem encode_of_decodeC {k : RegNum → RegNum → Instr} (hop : opField w = op)
    (hk : ∀ a b, encode (k a b) = packWord op 0 a b) (h : decodeC k w = .ok i) : encode i = w := by
  unfold decodeC at h
  split at h
  next hzero =>
    cases h
    simpa [hop, hzero, hk] using packWord_fields w
  next => cases h

theorem encode_of_decodeR3 {k : RegNum → RegNum → RegNum → Instr} (hop : opField w = op)
    (hk : ∀ d a b, encode (k d a b) = packWord op d a b) (h : decodeR3 k w = .ok i) : encode i = w := by
  cases h
  simpa [hop, hk] using packWord_fields w

end

/-- The opcode picks the format, and the format's fields come back as they were packed (R57, R60). -/
theorem decode_encode (i : Instr) : decode (encode i) = .ok i := by
  cases i <;> simp only [encode, decode, opField_packWord]
  case zero d | ldr d | cvt d | sat d | maxv d | minv d => exact decodeD_packWord _ d
  case rd a => exact decodeA_packWord _ a
  case eq a b => exact decodeC_packWord _ a b
  case add d a b | sub d a b | muls d a b | mulw d a b => exact decodeR3_packWord _ d a b

/-- No bit of an accepted word is ignored: each is a field of the command or required to be zero (R62). -/
theorem encode_of_decode {w : CmdWord} {i : Instr} (h : decode w = .ok i) : encode i = w := by
  unfold decode at h
  split at h
  case h_1 hop | h_2 hop | h_3 hop | h_10 hop | h_11 hop | h_12 hop => exact encode_of_decodeD hop (fun _ => rfl) h
  case h_4 hop => exact encode_of_decodeA hop (fun _ => rfl) h
  case h_5 hop => exact encode_of_decodeC hop (fun _ _ => rfl) h
  case h_6 hop | h_7 hop | h_8 hop | h_9 hop => exact encode_of_decodeR3 hop (fun _ _ _ => rfl) h
  case h_13 => cases h

/-- The word of every command matches the command's own row, the twelve laws of EncodeSelectsRow together. -/
theorem encode_and_mask (i : Instr) : encode i &&& i.mask = i.matchWord := by
  cases i with
  | zero d => exact Laws.EncodeSelectsRow.zero d
  | ldr d => exact Laws.EncodeSelectsRow.ldr d
  | cvt d => exact Laws.EncodeSelectsRow.cvt d
  | rd a => exact Laws.EncodeSelectsRow.rd a
  | eq a b => exact Laws.EncodeSelectsRow.eq a b
  | add d a b => exact Laws.EncodeSelectsRow.add d a b
  | sub d a b => exact Laws.EncodeSelectsRow.sub d a b
  | muls d a b => exact Laws.EncodeSelectsRow.muls d a b
  | mulw d a b => exact Laws.EncodeSelectsRow.mulw d a b
  | sat d => exact Laws.EncodeSelectsRow.sat d
  | maxv d => exact Laws.EncodeSelectsRow.maxv d
  | minv d => exact Laws.EncodeSelectsRow.minv d

/-! A word that matches a row is the row's opcode packed with the word's own register fields, one lemma per
mask of R61: the mask fixes the opcode and the fields that must be zero, and a word is its four fields. -/

section
variable {op : Fin 16} {w : CmdWord}

theorem packWord_of_and_F0FF (h : w &&& 0xF0FF = packWord op 0 0 0) :
    packWord op (dField w) 0 0 = w := by
  have hrow := congrArg BitVec.toNat h
  rw [toNat_and_F0FF, packWord_toNat, Fin.val_zero] at hrow
  have hfields : opField w = op ∧ aField w = 0 ∧ bField w = 0 := by
    simp only [Fin.ext_iff, opField_val, aField_val, bField_val, Fin.val_zero]
    omega
  simpa [hfields] using packWord_fields w

theorem packWord_of_and_FF0F (h : w &&& 0xFF0F = packWord op 0 0 0) :
    packWord op 0 (aField w) 0 = w := by
  have hrow := congrArg BitVec.toNat h
  rw [toNat_and_FF0F, packWord_toNat, Fin.val_zero] at hrow
  have hfields : opField w = op ∧ dField w = 0 ∧ bField w = 0 := by
    simp only [Fin.ext_iff, opField_val, dField_val, bField_val, Fin.val_zero]
    omega
  simpa [hfields] using packWord_fields w

theorem packWord_of_and_FF00 (h : w &&& 0xFF00 = packWord op 0 0 0) :
    packWord op 0 (aField w) (bField w) = w := by
  have hrow := congrArg BitVec.toNat h
  rw [toNat_and_FF00, packWord_toNat, Fin.val_zero] at hrow
  have hfields : opField w = op ∧ dField w = 0 := by
    simp only [Fin.ext_iff, opField_val, dField_val, Fin.val_zero]
    omega
  simpa [hfields] using packWord_fields w

theorem packWord_of_and_F000 (h : w &&& 0xF000 = packWord op 0 0 0) :
    packWord op (dField w) (aField w) (bField w) = w := by
  have hrow := congrArg BitVec.toNat h
  rw [toNat_and_F000, packWord_toNat, Fin.val_zero] at hrow
  have hfields : opField w = op := by
    rw [Fin.ext_iff, opField_val]
    omega
  simpa [hfields] using packWord_fields w

end

/-- The command of `i`'s row whose registers are the fields of `w`. -/
def Instr.withFieldsOf (w : CmdWord) : Instr → Instr
  | .zero _ => .zero (dField w)
  | .ldr _ => .ldr (dField w)
  | .cvt _ => .cvt (dField w)
  | .rd _ => .rd (aField w)
  | .eq _ _ => .eq (aField w) (bField w)
  | .add _ _ _ => .add (dField w) (aField w) (bField w)
  | .sub _ _ _ => .sub (dField w) (aField w) (bField w)
  | .muls _ _ _ => .muls (dField w) (aField w) (bField w)
  | .mulw _ _ _ => .mulw (dField w) (aField w) (bField w)
  | .sat _ => .sat (dField w)
  | .maxv _ => .maxv (dField w)
  | .minv _ => .minv (dField w)

@[simp] theorem Instr.mask_withFieldsOf (w : CmdWord) (i : Instr) : (i.withFieldsOf w).mask = i.mask := by
  cases i <;> rfl

@[simp] theorem Instr.matchWord_withFieldsOf (w : CmdWord) (i : Instr) :
    (i.withFieldsOf w).matchWord = i.matchWord := by
  cases i <;> rfl

/-- A row leaves free only the registers its command names. -/
theorem encode_withFieldsOf {w : CmdWord} {i : Instr} (h : w &&& i.mask = i.matchWord) :
    encode (i.withFieldsOf w) = w := by
  cases i with
  | zero _ => exact packWord_of_and_F0FF (op := 0x1) h
  | ldr _ => exact packWord_of_and_F0FF (op := 0x2) h
  | cvt _ => exact packWord_of_and_F0FF (op := 0x3) h
  | rd _ => exact packWord_of_and_FF0F (op := 0x4) h
  | eq _ _ => exact packWord_of_and_FF00 (op := 0x5) h
  | add _ _ _ => exact packWord_of_and_F000 (op := 0x6) h
  | sub _ _ _ => exact packWord_of_and_F000 (op := 0x7) h
  | muls _ _ _ => exact packWord_of_and_F000 (op := 0x8) h
  | mulw _ _ _ => exact packWord_of_and_F000 (op := 0x9) h
  | sat _ => exact packWord_of_and_F0FF (op := 0xA) h
  | maxv _ => exact packWord_of_and_F0FF (op := 0xB) h
  | minv _ => exact packWord_of_and_F0FF (op := 0xC) h

theorem matches_of_decode {w : CmdWord} {i : Instr} (h : decode w = .ok i) : w &&& i.mask = i.matchWord := by
  rw [← encode_of_decode h, encode_and_mask]

theorem decode_of_matches {w : CmdWord} {i : Instr} (h : w &&& i.mask = i.matchWord) :
    decode w = .ok (i.withFieldsOf w) := by
  rw [← decode_encode (i.withFieldsOf w), encode_withFieldsOf h]

/-- A word decodes to at most one command, so it cannot match two rows. -/
theorem matchWord_unique {w : CmdWord} {i j : Instr} (hi : w &&& i.mask = i.matchWord)
    (hj : w &&& j.mask = j.matchWord) : i.matchWord = j.matchWord := by
  have hfill : i.withFieldsOf w = j.withFieldsOf w :=
    Except.ok.inj ((decode_of_matches hi).symm.trans (decode_of_matches hj))
  simpa using congrArg Instr.matchWord hfill

/-- Settles O4: matching a row and decoding to a command of the row are the same, for the encoder's words are exactly the
words that match. -/
theorem maskAndMatchSelectTheCommand : Obligations.MaskAndMatchSelectTheCommand :=
  ⟨fun _ _ => matches_of_decode,
    fun w i h => ⟨i.withFieldsOf w, decode_of_matches h, i.mask_withFieldsOf w, i.matchWord_withFieldsOf w⟩,
    fun _ _ _ => matchWord_unique⟩

end Sys2Proof

/-! ### Construction and raw access (spec/40_construct_access.md R75, R76, R79 to R81) -/

namespace Sys2Proof

/-- The word with its four fields written in the place values of their hexadecimal digits (R56). -/
theorem packWord_eq_ofNat (op : Fin 16) (d a b : RegNum) :
    packWord op d a b = BitVec.ofNat 16 (0x1000 * op.val + 256 * d.val + 16 * a.val + b.val) := by
  unfold packWord
  congr 1
  omega

/-- A word written as a number decodes to the command whose word it is. -/
theorem decode_ofNat {i : Instr} {n : Nat} (h : encode i = BitVec.ofNat 16 n) : decode (BitVec.ofNat 16 n) = .ok i :=
  h ▸ decode_encode i

end Sys2Proof

namespace Sys2Proof.Machine

theorem bits_zero (n : Nat) : bits n 0 = 0 := BitVec.eq_of_toInt_eq (by simp [bits])

/-- MAX_RAW as a vector (R7). -/
theorem bits_two_pow_sub_one (n : Nat) : bits n (2 ^ (n - 1) - 1) = BitVec.intMax n := by
  rw [← BitVec.toInt_intMax]
  exact ofInt_toInt _

/-- MIN_RAW as a vector (R7). -/
theorem bits_neg_two_pow (n : Nat) : bits n (-2 ^ (n - 1)) = BitVec.intMin n := BitVec.intMin_eq_neg_two_pow.symm

/-- The low bits of the bus are a slice of it, because the bus is no narrower than a register (R58). -/
theorem dinLow_eq_extractLsb' (s : State) : dinLow s = s.inp.din.extractLsb' 0 s.cfg.W :=
  BitVec.setWidth_eq_extractLsb' s.cfg.width.bits_le_dataBits

section
variable (s : State) (d : RegNum)

theorem exec_zero_wrote : Wrote s d 0 (exec (.zero d) s) :=
  bits_zero s.cfg.W ▸ complete_wrote s d (bits s.cfg.W 0)

theorem exec_ldr_wrote : Wrote s d (s.inp.din.extractLsb' 0 s.cfg.W) (exec (.ldr d) s) :=
  dinLow_eq_extractLsb' s ▸ complete_wrote s d (dinLow s)

theorem exec_rd_answered (a : RegNum) : Answered s s.x[a] (exec (.rd a) s) := answer_answered s (s.reg a)

theorem exec_maxv_wrote : Wrote s d (BitVec.intMax s.cfg.W) (exec (.maxv d) s) :=
  bits_two_pow_sub_one s.cfg.W ▸ complete_wrote s d (bits s.cfg.W (2 ^ (s.cfg.W - 1) - 1))

theorem exec_minv_wrote : Wrote s d (BitVec.intMin s.cfg.W) (exec (.minv d) s) :=
  bits_neg_two_pow s.cfg.W ▸ complete_wrote s d (bits s.cfg.W (-2 ^ (s.cfg.W - 1)))

end

/-- Settles O33: ZERO writes the narrowed number 0, which is the all-zeros vector at every width. -/
theorem zeroWritesZero : Obligations.ZeroWritesZero := fun s d =>
  ⟨decode_ofNat (packWord_eq_ofNat 0x1 d 0 0), exec_zero_wrote s d⟩

/-- Settles O34: the operand of LDR is the slice of the bus, and it is written as it is. -/
theorem ldrStoresTheBusVerbatim : Obligations.LdrStoresTheBusVerbatim := fun s d =>
  ⟨decode_ofNat (packWord_eq_ofNat 0x2 d 0 0), exec_ldr_wrote s d⟩

/-- Settles O39: RD only answers. -/
theorem rdReturnsTheRegister : Obligations.RdReturnsTheRegister := fun s a =>
  ⟨decode_ofNat (packWord_eq_ofNat 0x4 0 a 0), exec_rd_answered s a⟩

/-- Settles O40: the value is `BitVec.intMax`, which has the sign bit alone clear. -/
theorem maxvWritesTheMaximum : Obligations.MaxvWritesTheMaximum := by
  intro s d
  refine ⟨decode_ofNat (packWord_eq_ofNat 0xB d 0 0), BitVec.intMax s.cfg.W, exec_maxv_wrote s d,
    BitVec.toInt_intMax, fun k => ?_⟩
  rw [BitVec.getLsbD_intMax, decide_eq_decide]
  omega

/-- Settles O41: the value is `BitVec.intMin`, which has the sign bit alone set. -/
theorem minvWritesTheMinimum : Obligations.MinvWritesTheMinimum := by
  intro s d
  have hpos : 0 < s.cfg.W := s.cfg.width.bits_pos
  refine ⟨decode_ofNat (packWord_eq_ofNat 0xC d 0 0), BitVec.intMin s.cfg.W, exec_minv_wrote s d,
    BitVec.toInt_intMin_of_pos hpos, fun k => ?_⟩
  rw [BitVec.getLsbD_intMin, decide_eq_decide]
  omega

end Sys2Proof.Machine

/-! ### Comparison (spec/41_compare.md R90) -/

namespace Sys2Proof.Machine

theorem bits_one (n : Nat) : bits n 1 = BitVec.ofNat n 1 := BitVec.ofInt_ofNat n 1

section
variable {s : State} {a b : RegNum}

theorem exec_eq_answered_of_eq (h : s.x[a] = s.x[b]) : Answered s (BitVec.ofNat s.cfg.W 1) (exec (.eq a b) s) := by
  have hexec : exec (.eq a b) s = answer s (bits s.cfg.W 1) :=
    congrArg (fun z => answer s (bits s.cfg.W z)) (if_pos h)
  rw [hexec, bits_one]
  exact answer_answered s _

theorem exec_eq_answered_of_ne (h : s.x[a] ≠ s.x[b]) : Answered s 0 (exec (.eq a b) s) := by
  have hexec : exec (.eq a b) s = answer s (bits s.cfg.W 0) :=
    congrArg (fun z => answer s (bits s.cfg.W z)) (if_neg h)
  rw [hexec, bits_zero]
  exact answer_answered s _

end

/-- Settles O42: two registers are equal exactly when their W bits are, so EQ takes the branch the bits say. -/
theorem eqComparesEveryBit : Obligations.EqComparesEveryBit := by
  intro s a b
  refine ⟨decode_ofNat (packWord_eq_ofNat 0x5 0 a b), fun hsame => ?_, fun ⟨k, _, hdiffer⟩ => ?_⟩
  · exact exec_eq_answered_of_eq (BitVec.eq_of_getLsbD_eq hsame)
  · exact exec_eq_answered_of_ne fun heq => hdiffer (congrArg (·.getLsbD k) heq)

end Sys2Proof.Machine

/-! ### Addition and subtraction (spec/42_add_sub.md R96, R97) -/

namespace Sys2Proof.Machine

/-! A number at most half a period out of range comes back into range by one period (R11). -/

section
variable {n : Nat}

/-- Narrowing finds the one number in range that is equal modulo 2^N. -/
theorem toInt_ofInt_of_emod_eq {y z : Int} (hn : 0 < n) (h : y % 2 ^ n = z % 2 ^ n) (h1 : -2 ^ (n - 1) ≤ z)
    (h2 : z ≤ 2 ^ (n - 1) - 1) : (BitVec.ofInt n y).toInt = z := by
  rw [ofInt_eq_iff.mpr h, toInt_ofInt_of_range hn h1 h2]

theorem toInt_ofInt_of_above {z : Int} (hn : 0 < n) (h1 : 2 ^ (n - 1) - 1 < z) (h2 : z ≤ 2 ^ n) :
    (BitVec.ofInt n z).toInt = z - 2 ^ n := by
  have := two_pow_pred hn
  have := two_pow_pos (n - 1)
  exact toInt_ofInt_of_emod_eq hn (Int.sub_emod_right z _).symm (by omega) (by omega)

theorem toInt_ofInt_of_below {z : Int} (hn : 0 < n) (h1 : z < -2 ^ (n - 1)) (h2 : -2 ^ n ≤ z) :
    (BitVec.ofInt n z).toInt = z + 2 ^ n := by
  have := two_pow_pred hn
  exact toInt_ofInt_of_emod_eq hn (Int.add_emod_right z _).symm (by omega) (by omega)

end

/-! The sum and the difference of two vectors are those of their signed and of their unsigned values, narrowed. -/

theorem ofInt_sub (n : Nat) (y z : Int) : BitVec.ofInt n (y - z) = BitVec.ofInt n y - BitVec.ofInt n z :=
  BitVec.eq_of_toInt_eq (by simp)

theorem ofInt_toNat {n : Nat} (x : BitVec n) : BitVec.ofInt n x.toNat = x := by simp

section
variable {n : Nat} (x y : BitVec n)

theorem ofInt_toInt_add : BitVec.ofInt n (x.toInt + y.toInt) = x + y := by
  rw [BitVec.ofInt_add, ofInt_toInt, ofInt_toInt]

theorem ofInt_toInt_sub : BitVec.ofInt n (x.toInt - y.toInt) = x - y := by
  rw [ofInt_sub, ofInt_toInt, ofInt_toInt]

theorem bits_uval_add : bits n (uval x + uval y) = x + y := by
  rw [bits, uval, uval, BitVec.ofInt_add, ofInt_toNat, ofInt_toNat]

theorem bits_uval_sub : bits n (uval x - uval y) = x - y := by
  rw [bits, uval, uval, ofInt_sub, ofInt_toNat, ofInt_toNat]

theorem toNat_sub_emod : ((x - y).toNat : Int) = ((x.toNat : Int) - y.toNat) % 2 ^ n := by
  rw [← toInt_emod, ← ofInt_eq_iff, ofInt_toInt]
  exact (bits_uval_sub x y).symm

/-- The exact sum of two vectors is at most half a period out of range on either side. -/
theorem toInt_add_range (hn : 0 < n) : -2 ^ n ≤ x.toInt + y.toInt ∧ x.toInt + y.toInt ≤ 2 ^ n - 2 := by
  have := two_pow_pred hn
  have := toInt_range hn x
  have := toInt_range hn y
  omega

/-- The exact difference of two vectors is at most half a period out of range on either side. -/
theorem toInt_sub_range (hn : 0 < n) : -2 ^ n + 1 ≤ x.toInt - y.toInt ∧ x.toInt - y.toInt ≤ 2 ^ n - 1 := by
  have := two_pow_pred hn
  have := toInt_range hn x
  have := toInt_range hn y
  omega

end

section
variable (s : State) (d a b : RegNum)

theorem exec_add_wrote : Wrote s d (s.x[a] + s.x[b]) (exec (.add d a b) s) :=
  bits_uval_add s.x[a] s.x[b] ▸ complete_wrote s d (bits s.cfg.W (uval s.x[a] + uval s.x[b]))

theorem exec_sub_wrote : Wrote s d (s.x[a] - s.x[b]) (exec (.sub d a b) s) :=
  bits_uval_sub s.x[a] s.x[b] ▸ complete_wrote s d (bits s.cfg.W (uval s.x[a] - uval s.x[b]))

end

/-- Settles O43: ADD writes the sum of the vectors, and the exact signed sum is in range or at most half a period outside. -/
theorem addWrapsSilently : Obligations.AddWrapsSilently := by
  intro s d a b
  have hpos : 0 < s.cfg.W := s.cfg.width.bits_pos
  have hsum := (ofInt_toInt_add s.x[a] s.x[b]).symm
  obtain ⟨hlow, hhigh⟩ := toInt_add_range s.x[a] s.x[b] hpos
  refine ⟨decode_ofNat (packWord_eq_ofNat 0x6 d a b), s.x[a] + s.x[b], exec_add_wrote s d a b,
    BitVec.toNat_add _ _, hsum, fun hmin hmax => ?_, fun habove => ?_, fun hbelow => ?_⟩
  · rw [hsum, toInt_ofInt_of_range hpos hmin hmax]
  · rw [hsum, toInt_ofInt_of_above hpos habove (by omega)]
    exact ⟨rfl, by omega⟩
  · rw [hsum, toInt_ofInt_of_below hpos hbelow hlow]
    exact ⟨rfl, by omega⟩

/-- Settles O44: SUB writes the difference of the vectors, and the exact signed difference is in range or at most half a
period outside. -/
theorem subWrapsSilently : Obligations.SubWrapsSilently := by
  intro s d a b
  have hpos : 0 < s.cfg.W := s.cfg.width.bits_pos
  have hdiff := (ofInt_toInt_sub s.x[a] s.x[b]).symm
  obtain ⟨hlow, hhigh⟩ := toInt_sub_range s.x[a] s.x[b] hpos
  refine ⟨decode_ofNat (packWord_eq_ofNat 0x7 d a b), s.x[a] - s.x[b], exec_sub_wrote s d a b,
    toNat_sub_emod _ _, hdiff, fun hmin hmax => ?_, fun habove => ?_, fun hbelow => ?_⟩
  · rw [hdiff, toInt_ofInt_of_range hpos hmin hmax]
  · rw [hdiff, toInt_ofInt_of_above hpos habove (by omega)]
  · rw [hdiff, toInt_ofInt_of_below hpos hbelow (by omega)]

end Sys2Proof.Machine

/-! ### Multiplication (spec/43_multiply.md R106 to R108) -/

namespace Sys2Proof.Machine

/-! What the clamp gives on each side of the range (R122). -/

section
variable {n : Nat} {z : Int}

theorem clamp_of_above (h : 2 ^ (n - 1) - 1 < z) : clamp n z = 2 ^ (n - 1) - 1 := if_pos h

theorem clamp_of_below (h : z < -2 ^ (n - 1)) : clamp n z = -2 ^ (n - 1) := by
  have := two_pow_pos (n - 1)
  have hnot : ¬ z > 2 ^ (n - 1) - 1 := by omega
  rw [clamp, if_neg hnot, if_pos h]

theorem clamp_of_range (h1 : -2 ^ (n - 1) ≤ z) (h2 : z ≤ 2 ^ (n - 1) - 1) : clamp n z = z := by
  rw [clamp, if_neg h2.not_gt, if_neg h1.not_gt]

end

/-- The signed value of a narrowed number differs from it by whole periods (R11). -/
theorem exists_toInt_ofInt_eq_add (n : Nat) (z : Int) : ∃ k : Int, (BitVec.ofInt n z).toInt = z + k * 2 ^ n := by
  have hmod : z ≡ (BitVec.ofInt n z).toInt [ZMOD 2 ^ n] := ofInt_eq_iff.mp (ofInt_toInt _).symm
  obtain ⟨k, hk⟩ := Int.modEq_iff_add_fac.mp hmod
  exact ⟨k, by rw [hk, mul_comm]⟩

/-- The arithmetic shift right of a vector is that of its signed value (R11). -/
theorem toInt_sshiftRight_eq_asr {m : Nat} (p : BitVec m) (k : Nat) : (p.sshiftRight k).toInt = asr p.toInt k := by
  rw [BitVec.toInt_sshiftRight, Int.shiftRight_eq_div_pow, asr]
  norm_cast

/-- A slice inside a vector does not reach the copies of the sign that an arithmetic shift brings in. -/
theorem extractLsb'_eq_setWidth_sshiftRight {m k n : Nat} (h : k + n ≤ m) (p : BitVec m) :
    p.extractLsb' k n = (p.sshiftRight k).setWidth n := by
  ext i hi
  have hbit : k + i < m := by omega
  have hlow : ¬ m ≤ i := by omega
  rw [BitVec.getElem_extractLsb', BitVec.getElem_setWidth, BitVec.getLsbD_sshiftRight]
  simp [hbit, hlow]

/-- A slice from bit `k` inside a vector is the shifted signed value, narrowed. -/
theorem extractLsb'_eq_ofInt_asr {m k n : Nat} (h : k + n ≤ m) (p : BitVec m) :
    p.extractLsb' k n = BitVec.ofInt n (asr p.toInt k) := by
  have hle : n ≤ m := by omega
  rw [extractLsb'_eq_setWidth_sshiftRight h, ← toInt_sshiftRight_eq_asr, ← BitVec.signExtend_eq_setWidth_of_le _ hle]
  rfl

/-- The product of the sign-extended operands is exact in the double width (R106). -/
theorem toInt_signExtend_mul {n : Nat} (hn : 0 < n) (x y : BitVec n) :
    (x.signExtend (2 * n) * y.signExtend (2 * n)).toInt = x.toInt * y.toInt := by
  obtain ⟨hlow, hhigh⟩ := mul_range hn x y
  have hhalf : (2 : Int) ^ (2 * n - 1) = 2 ^ (n - 1) * 2 ^ (n - 1) * 2 := by
    rw [← pow_add, ← pow_succ]
    congr 1
    omega
  have hpos := mul_pos (two_pow_pos (n - 1)) (two_pow_pos (n - 1))
  have hproduct : x.signExtend (2 * n) * y.signExtend (2 * n) = BitVec.ofInt (2 * n) (x.toInt * y.toInt) :=
    (BitVec.ofInt_mul _ _).symm
  rw [hproduct, toInt_ofInt_of_range (by omega) (by omega) (by omega)]

/-! The commands that need a wider bus: UnsupportedOp at W = 64, otherwise an ordinary write (R107, R108, R131). -/

theorem withWider_raised {s : State} {k : Host.Outcome State Fault Refusal} (h : s.cfg.W = 64) :
    Raised s .unsupportedOp 2 (withWider s k) := by
  rw [withWider_of_eq h]
  exact raise_unsupportedOp s

theorem withWider_complete_wrote {s : State} {d : RegNum} {v : Value s.cfg} (h : s.cfg.W ≠ 64) :
    Wrote s d v (withWider s (complete s d v)) := by
  rw [withWider_of_ne h]
  exact complete_wrote s d v

section
variable {s : State} {d a b : RegNum}

theorem scaledProduct_eq_fdiv : scaledProduct s a b = (s.x[a].toInt * s.x[b].toInt).fdiv (2 ^ s.cfg.F) :=
  asr_eq_fdiv _ _

/-- `bits_W(Q)` is the slice of W bits from bit F of the product in the double width (R106, R108). -/
theorem extractLsb'_wideProduct :
    (s.x[a].signExtend (2 * s.cfg.W) * s.x[b].signExtend (2 * s.cfg.W)).extractLsb' s.cfg.F s.cfg.W =
      BitVec.ofInt s.cfg.W (scaledProduct s a b) := by
  have hfits : s.cfg.F + s.cfg.W ≤ 2 * s.cfg.W := by
    have := s.cfg.F_lt
    omega
  rw [extractLsb'_eq_ofInt_asr hfits, toInt_signExtend_mul s.cfg.width.bits_pos]
  rfl

theorem exec_muls_raised (h : s.cfg.W = 64) : Raised s .unsupportedOp 2 (exec (.muls d a b) s) := withWider_raised h

theorem exec_mulw_raised (h : s.cfg.W = 64) : Raised s .unsupportedOp 2 (exec (.mulw d a b) s) := withWider_raised h

theorem exec_muls_wrote (h : s.cfg.W ≠ 64) :
    Wrote s d (BitVec.ofInt s.cfg.W (clamp s.cfg.W (scaledProduct s a b))) (exec (.muls d a b) s) :=
  withWider_complete_wrote h

theorem exec_mulw_wrote (h : s.cfg.W ≠ 64) :
    Wrote s d (BitVec.ofInt s.cfg.W (scaledProduct s a b)) (exec (.mulw d a b) s) :=
  withWider_complete_wrote h

end

/-- Settles O48: below W = 64 MULS writes the clamp of the shifted product, and a clamped number survives the
narrowing. -/
theorem mulsSaturates : Obligations.MulsSaturates := by
  intro s d a b
  refine ⟨decode_ofNat (packWord_eq_ofNat 0x8 d a b), exec_muls_raised, fun hw => ⟨_, exec_muls_wrote hw, ?_⟩⟩
  rw [toInt_ofInt_clamp s.cfg.width.bits_pos, scaledProduct_eq_fdiv]
  exact ⟨clamp_of_above, clamp_of_below, clamp_of_range⟩

/-- Settles O49: below W = 64 MULW writes the narrowed shifted product, which the slice of the wide product is too. -/
theorem mulwKeepsTheLowBits : Obligations.MulwKeepsTheLowBits := by
  intro s d a b
  refine ⟨decode_ofNat (packWord_eq_ofNat 0x9 d a b), exec_mulw_raised, fun hw => ⟨_, exec_mulw_wrote hw, ?_⟩⟩
  rw [extractLsb'_wideProduct, scaledProduct_eq_fdiv]
  exact ⟨rfl, rfl, toInt_ofInt_of_range s.cfg.width.bits_pos, exists_toInt_ofInt_eq_add _ _⟩

end Sys2Proof.Machine

/-! ### Saturation (spec/44_saturate.md R122, R123) -/

namespace Sys2Proof.Machine

section
variable {n : Nat} {z z' : Int}

/-- If `z'` is above the range or `z` below it, one of the two is clamped to an end of the range; otherwise both are in
it and stay as they are. -/
theorem clamp_le_clamp (h : z ≤ z') : clamp n z ≤ clamp n z' := by
  obtain ⟨hlow, -⟩ := clamp_range n z'
  obtain ⟨-, hhigh⟩ := clamp_range n z
  obtain habove | hmax' := lt_or_ge (2 ^ (n - 1) - 1) z'
  · rwa [clamp_of_above habove]
  obtain hbelow | hmin := lt_or_ge z (-2 ^ (n - 1))
  · rwa [clamp_of_below hbelow]
  rwa [clamp_of_range hmin (h.trans hmax'), clamp_of_range (hmin.trans h) hmax']

theorem clamp_clamp : clamp n (clamp n z) = clamp n z := clamp_of_range (clamp_range n z).1 (clamp_range n z).2

end

/-- Settles O56: monotonicity goes by where the two numbers lie, and the clamp is idempotent because its values are in
the range, where it is the identity. -/
theorem clampLaws : Obligations.ClampLaws := fun n z _ =>
  ⟨clamp_of_above, clamp_of_below, clamp_of_range, clamp_le_clamp, clamp_clamp, clamp_range n z⟩

section
variable {s : State} {d : RegNum}

theorem exec_sat_raised (h : s.cfg.W = 64) : Raised s .unsupportedOp 2 (exec (.sat d) s) := withWider_raised h

theorem exec_sat_wrote (h : s.cfg.W ≠ 64) :
    Wrote s d (BitVec.ofInt s.cfg.W (clamp s.cfg.W s.inp.din.toInt)) (exec (.sat d) s) :=
  withWider_complete_wrote h

end

/-- Settles O57: below W = 64 the bus is two registers wide, and SAT writes the clamp of its signed value, which
survives the narrowing. -/
theorem satClampsTheWholeBus : Obligations.SatClampsTheWholeBus := by
  intro s d
  refine ⟨decode_ofNat (packWord_eq_ofNat 0xA d 0 0), exec_sat_raised,
    fun hw => ⟨s.cfg.width.dataBits_eq hw, _, exec_sat_wrote hw, ?_⟩⟩
  rw [toInt_ofInt_clamp s.cfg.width.bits_pos]
  exact ⟨clamp_of_above, clamp_of_below, clamp_of_range⟩

end Sys2Proof.Machine

/-! ### Exceptions (spec/60_exceptions.md R130, R131) -/

namespace Sys2Proof.Machine

/-- The commands that need a wider intermediate are the three of R121. -/
theorem needsWider_iff {i : Instr} :
    i.needsWider = true ↔ (∃ d a b, i = .muls d a b) ∨ (∃ d a b, i = .mulw d a b) ∨ ∃ d, i = .sat d := by
  cases i <;> simp [Instr.needsWider]

theorem available_eq_false_iff {c : Config} {i : Instr} :
    i.available c = false ↔ c.W = 64 ∧ i.needsWider = true := by
  simp [Instr.available, and_comm]

/-! The status that each way to end a command shows (R132). -/

section
variable {s t : State} {i : Instr}

theorem Wrote.rspStatus {d : RegNum} {v : Value s.cfg} (h : Wrote s d v (.next t)) : t.out.rspStatus = 0 := by
  obtain ⟨y, hnext, -⟩ := h
  cases hnext
  rfl

theorem Answered.rspStatus {v : Value s.cfg} (h : Answered s v (.next t)) : t.out.rspStatus = 0 := by
  cases h
  rfl

theorem Raised.rspStatus {st : Status} {code : BitVec 2} (h : Raised s st code (.next t)) :
    t.out.rspStatus = code := by
  cases h
  rfl

/-- A command that is not available raises before anything else (R131). -/
theorem exec_raised_of_not_available (ha : i.available s.cfg = false) : Raised s .unsupportedOp 2 (exec i s) := by
  obtain ⟨hw, hwide⟩ := available_eq_false_iff.mp ha
  obtain ⟨d, a, b, rfl⟩ | ⟨d, a, b, rfl⟩ | ⟨d, rfl⟩ := needsWider_iff.mp hwide
  · exact exec_muls_raised hw
  · exact exec_mulw_raised hw
  · exact exec_sat_raised hw

/-- RD and EQ are the commands without a destination (R23), and they only answer. -/
theorem exec_answered_of_dest_none (hd : i.dest = none) : ∃ v, Answered s v (exec i s) := by
  cases i <;> cases hd
  case rd a => exact ⟨_, exec_rd_answered s a⟩
  case eq a b => exact ⟨_, answer_answered s _⟩

theorem exec_rspStatus_of_available (ha : i.available s.cfg = true) (h : exec i s = .next t) :
    t.out.rspStatus = 0 := by
  cases hd : i.dest with
  | some d =>
    obtain ⟨v, hwrote⟩ := exec_wrote hd ha
    exact (h ▸ hwrote).rspStatus
  | none =>
    obtain ⟨v, hanswered⟩ := exec_answered_of_dest_none (s := s) hd
    exact (h ▸ hanswered).rspStatus

theorem exec_rspStatus_of_not_available (ha : i.available s.cfg = false) (h : exec i s = .next t) :
    t.out.rspStatus = 2 :=
  (h ▸ exec_raised_of_not_available ha).rspStatus

/-- The status tells availability: it is 0 for an available command and 2 for any other. -/
theorem exec_rspStatus_eq_two_iff (h : exec i s = .next t) : t.out.rspStatus = 2 ↔ i.available s.cfg = false := by
  cases ha : i.available s.cfg with
  | true => simp [exec_rspStatus_of_available ha h]
  | false => simp [exec_rspStatus_of_not_available ha h]

end

/-- Settles O31: the status is 2 exactly when the command is not available, which is the case of the three that need a
wider intermediate at W = 64. -/
theorem unsupportedOpExactlyAtTheTop : Obligations.UnsupportedOpExactlyAtTheTop := by
  refine ⟨fun s d a b hw => ⟨exec_muls_raised hw, exec_mulw_raised hw, exec_sat_raised hw⟩, fun i s t h => ?_⟩
  rw [exec_rspStatus_eq_two_iff h, available_eq_false_iff, needsWider_iff]

/-- A word that decodes to no command raises IllegalCommand (R130). -/
theorem runCommand_raised_of_error {s : State} {e : Reserved} (h : decode s.inp.cmd = .error e) :
    Raised s .illegalCmd 1 (runCommand s) := by
  have hrun : runCommand s = raise s .illegalCommand := by simp [runCommand, h]
  exact hrun ▸ raise_illegalCommand s

/-- Settles O16: the step runs the word of the accepted cycle, and a reserved word raises. -/
theorem reservedWordRaisesIllegalCommand : Obligations.ReservedWordRaisesIllegalCommand := by
  intro s p rest e hstream hrst hvalid hdecode
  rw [step_accepted hstream ⟨hrst, hvalid⟩]
  exact runCommand_raised_of_error hdecode

end Sys2Proof.Machine

/-! ### Round trip and reserved words (spec/30_encoding.md R60 to R63) -/

namespace Sys2Proof

/-- Settles O2: the round trip of every command, format by format. -/
theorem decodeOfEncode : Obligations.DecodeOfEncode := decode_encode

/-- Settles O3: a decoded word is the four fields that the encoder packs again. -/
theorem encodeOfDecode : Obligations.EncodeOfDecode := fun _ _ => encode_of_decode

/-- Settles O1: the decoder is run on each of the eighteen words. -/
theorem decodesTheWordsOfTheTable : Obligations.DecodesTheWordsOfTheTable := by
  unfold Obligations.DecodesTheWordsOfTheTable
  decide

/-! When the reader of each format refuses: a must-be-zero field is not zero (R62). -/

section
variable {w : CmdWord}

theorem decodeD_error_iff {k : RegNum → Instr} :
    (∃ e, decodeD k w = .error e) ↔ ¬ (aField w = 0 ∧ bField w = 0) := by
  unfold decodeD
  split
  next h => simp [h]
  next h => simp [h]

theorem decodeA_error_iff {k : RegNum → Instr} :
    (∃ e, decodeA k w = .error e) ↔ dField w ≠ 0 ∨ bField w ≠ 0 := by
  unfold decodeA
  split
  next h => simp [h]
  next h => exact iff_of_true ⟨_, rfl⟩ (not_and_or.mp h)

theorem decodeC_error_iff {k : RegNum → RegNum → Instr} : (∃ e, decodeC k w = .error e) ↔ dField w ≠ 0 := by
  unfold decodeC
  split
  next h => simp [h]
  next h => simp [h]

/-- Format R3 has no field that must be zero. -/
theorem decodeR3_ne_error {k : RegNum → RegNum → RegNum → Instr} : ¬ ∃ e, decodeR3 k w = .error e := by
  simp [decodeR3]

end

/-- R63 in the fields of the word: which opcodes are unassigned, and which fields the others require to be zero. -/
theorem decode_error_iff {w : CmdWord} : (∃ e, decode w = .error e) ↔
    (opField w = 0x0 ∨ opField w = 0xD ∨ opField w = 0xE ∨ opField w = 0xF) ∨
    ((opField w = 0x1 ∨ opField w = 0x2 ∨ opField w = 0x3 ∨ opField w = 0xA ∨ opField w = 0xB ∨ opField w = 0xC) ∧
      ¬ (aField w = 0 ∧ bField w = 0)) ∨
    (opField w = 0x4 ∧ (dField w ≠ 0 ∨ bField w ≠ 0)) ∨
    (opField w = 0x5 ∧ dField w ≠ 0) := by
  unfold decode
  split
  case h_1 hop | h_2 hop | h_3 hop | h_10 hop | h_11 hop | h_12 hop => simp [hop, decodeD_error_iff]
  case h_4 hop => simp [hop, decodeA_error_iff]
  case h_5 hop => simp [hop, decodeC_error_iff]
  case h_6 hop | h_7 hop | h_8 hop | h_9 hop => simp [hop, decodeR3_ne_error]
  case h_13 =>
    refine iff_of_true ⟨_, rfl⟩ (.inl ?_)
    generalize opField w = op at *
    decide +revert

/-! The fields as slices of the word (R56). -/

section
variable {w : CmdWord}

theorem extractLsb_15_12_eq_iff {op : BitVec 4} : w.extractLsb 15 12 = op ↔ opField w = op.toFin :=
  ⟨congrArg BitVec.toFin, BitVec.eq_of_toFin_eq⟩

theorem extractLsb_11_8_eq_zero_iff : w.extractLsb 11 8 = 0 ↔ dField w = 0 :=
  ⟨congrArg BitVec.toFin, BitVec.eq_of_toFin_eq⟩

theorem extractLsb_3_0_eq_zero_iff : w.extractLsb 3 0 = 0 ↔ bField w = 0 :=
  ⟨congrArg BitVec.toFin, BitVec.eq_of_toFin_eq⟩

theorem extractLsb_7_0_eq_zero_iff : w.extractLsb 7 0 = 0 ↔ aField w = 0 ∧ bField w = 0 := by
  have hslice : w.extractLsb 7 0 = 0 ↔ w.toNat % 256 = 0 := by simp [← BitVec.toNat_inj]
  rw [hslice, Fin.ext_iff, Fin.ext_iff, aField_val, bField_val, Fin.val_zero]
  omega

end

/-! A word that decodes is the word of one command, so there are as many as there are commands. -/

theorem encode_injective : Function.Injective encode := fun i j h =>
  Except.ok.inj ((decode_encode i).symm.trans (h ▸ decode_encode j))

/-- A command is the choice of a row of the table and of register numbers for the row's fields. -/
def Instr.rowAndRegs := proxy_equiv% Instr

theorem card_instr : Nat.card Instr = 16752 := by
  rw [Nat.card_congr Instr.rowAndRegs.symm]
  simp

theorem decode_toBool_iff {w : CmdWord} : (decode w).toBool = true ↔ ∃ i, encode i = w := by
  constructor
  · intro h
    cases hw : decode w with
    | ok i => exact ⟨i, encode_of_decode hw⟩
    | error e => simp [hw, Except.toBool] at h
  · rintro ⟨i, rfl⟩
    rw [decode_encode]
    rfl

/-- Counting by a list of numbers is counting what they number. -/
theorem length_filter_range {α : Type} {f : α → Nat} (hf : Function.Injective f) {n : Nat} {p : Nat → Bool}
    (h : ∀ k, (k < n ∧ p k = true) ↔ ∃ a, f a = k) : ((List.range n).filter p).length = Nat.card α := by
  have hrange : (((List.range n).filter p).toFinset : Set Nat) = Set.range f := by
    ext k
    simpa using h k
  rw [← List.toFinset_card_of_nodup (List.nodup_range.filter p), ← Set.ncard_coe_finset, hrange,
    ← Nat.card_coe_set_eq, Nat.card_range_of_injective hf]

/-- Settles O6: the words that select a command are the words of the commands, one for each. -/
theorem countOfWordsThatSelectACommand : Obligations.CountOfWordsThatSelectACommand := by
  have hinj : Function.Injective fun i => (encode i).toNat := fun i j h => encode_injective (BitVec.eq_of_toNat_eq h)
  refine (length_filter_range hinj fun n => ?_).trans card_instr
  rw [decode_toBool_iff]
  constructor
  · rintro ⟨hn, i, hi⟩
    exact ⟨i, by rw [hi, BitVec.toNat_ofNat, Nat.mod_eq_of_lt hn]⟩
  · rintro ⟨i, rfl⟩
    exact ⟨(encode i).isLt, i, BitVec.eq_of_toNat_eq (by simp)⟩

end Sys2Proof

/-! ### What each command and each cycle does (spec/10_state.md R23, R30, spec/70_reset_and_hazards.md R155, R156) -/

namespace Sys2Proof.Machine

section
variable {i : Instr} {s t : State}

/-- Every command writes its destination, only answers, or raises (R23, R131). -/
theorem exec_cases (i : Instr) (s : State) :
    (∃ d v, i.dest = some d ∧ Wrote s d v (exec i s)) ∨ (∃ v, i.dest = none ∧ Answered s v (exec i s)) ∨
      Raised s .unsupportedOp 2 (exec i s) := by
  cases ha : i.available s.cfg with
  | false => exact .inr (.inr (exec_raised_of_not_available ha))
  | true =>
    cases hd : i.dest with
    | some d =>
      obtain ⟨v, hwrote⟩ := exec_wrote hd ha
      exact .inl ⟨d, v, rfl, hwrote⟩
    | none =>
      obtain ⟨v, hanswered⟩ := exec_answered_of_dest_none (s := s) hd
      exact .inr (.inl ⟨v, rfl, hanswered⟩)

theorem exec_next (i : Instr) (s : State) : ∃ t, exec i s = .next t := by
  obtain ⟨d, v, -, y, hnext, -⟩ | ⟨v, -, hnext⟩ | hnext := exec_cases i s
  · exact ⟨_, hnext⟩
  · exact ⟨_, hnext⟩
  · exact ⟨_, hnext⟩

/-- Settles O27: a command ends in one of three ways, and each is a next state. -/
theorem everyCommandAnswersANextState : Obligations.EveryCommandAnswersANextState := exec_next

/-- Settles O28: the frame of each of the three ways a command can end. -/
theorem commandsWriteTheirDestinationOnly : Obligations.CommandsWriteTheirDestinationOnly := by
  intro i s t h
  obtain ⟨d, v, hd, y, hnext, hval, hframe⟩ | ⟨v, hd, hnext⟩ | hnext := exec_cases i s
  · cases h.symm.trans hnext
    refine ⟨y, ⟨.ok, v⟩, rfl, fun k hk => hframe k fun hkd => hk (hkd ▸ hd), fun hok => absurd rfl hok, ?_⟩
    intro _ k hk
    cases hd.symm.trans hk
    exact hval
  · cases h.symm.trans hnext
    exact ⟨s.x, ⟨.ok, v⟩, rfl, fun _ _ => rfl, fun hok => absurd rfl hok, fun _ k hk => nomatch hd.symm.trans hk⟩
  · cases h.symm.trans hnext
    exact ⟨s.x, ⟨.unsupportedOp, 0⟩, rfl, fun _ _ => rfl, fun _ => ⟨rfl, rfl⟩, nofun⟩

/-- Settles O32: the status of a command that writes or answers is 0, and an unavailable command raises. -/
theorem availabilityDecidesTheStatus : Obligations.AvailabilityDecidesTheStatus := fun _ _ _ h =>
  ⟨fun ha => exec_rspStatus_of_available ha h, fun ha => exec_rspStatus_of_not_available ha h⟩

/-- Settles O30: the operand of LDR and CVT is the bus modulo 2^W. -/
theorem unusedInputBitsAreIgnored : Obligations.UnusedInputBitsAreIgnored := by
  intro i s inp hlow hsat
  have hdin (huses : i.usesDin = true) : inp.din.setWidth s.cfg.W = s.inp.din.setWidth s.cfg.W :=
    BitVec.eq_of_toNat_eq (by simpa only [BitVec.toNat_setWidth] using hlow huses)
  exact exec_endAlike (out := s.out) i hdin fun his => congrArg sval (hsat his)

/-! A clock edge takes one of three kinds of cycle. -/

theorem clockEdge_of_rst (h : s.inp.rst = true) : clockEdge s = .next s.resetEdge := if_pos h

theorem clockEdge_of_idle (hrst : s.inp.rst = false) (hvalid : s.inp.cmdValid = false) :
    clockEdge s = .next s.idleEdge := by
  simp [clockEdge, hrst, hvalid]

theorem clockEdge_next (h : clockEdge s = .next t) :
    (s.inp.rst = true ∧ t = s.resetEdge) ∨ (s.inp.rst = false ∧ s.inp.cmdValid = false ∧ t = s.idleEdge) ∨
      (s.inp.accepted ∧ Ended s t) := by
  cases hrst : s.inp.rst with
  | true =>
    cases (clockEdge_of_rst hrst).symm.trans h
    exact .inl ⟨rfl, rfl⟩
  | false =>
    cases hvalid : s.inp.cmdValid with
    | false =>
      cases (clockEdge_of_idle hrst hvalid).symm.trans h
      exact .inr (.inl ⟨rfl, rfl, rfl⟩)
    | true => exact .inr (.inr ⟨⟨hrst, hvalid⟩, runCommand_ended ((clockEdge_accepted ⟨hrst, hvalid⟩).symm.trans h)⟩)

end

/-- Settles O12: an edge with `rst = 1` is the reset edge, which holds the cleared file. -/
theorem resetEdgeClearsAndAnswersNothing : Obligations.ResetEdgeClearsAndAnswersNothing := fun s h =>
  ⟨Regs.zero s.cfg, clockEdge_of_rst h, Regs.zero_get s.cfg⟩

/-- Settles O13: without reset and command the edge is the idle edge. -/
theorem idleEdgeChangesNothing : Obligations.IdleEdgeChangesNothing := fun _ => clockEdge_of_idle

/-- Settles O14: an accepted cycle runs its word, and the word decodes. -/
theorem commandEdgeRunsTheCommand : Obligations.CommandEdgeRunsTheCommand := fun _ _ hrst hvalid hdecode =>
  (clockEdge_accepted ⟨hrst, hvalid⟩).trans (runCommand_ok hdecode)

/-- Settles O15: the step takes the accepted cycle, whose word decodes. -/
theorem stepRunsTheDecodedCommand : Obligations.StepRunsTheDecodedCommand :=
  fun _ _ _ _ hstream hrst hvalid hdecode => (step_accepted hstream ⟨hrst, hvalid⟩).trans (runCommand_ok hdecode)

theorem clockEdge_raised_of_error {s : State} {e : Reserved} (haccepted : s.inp.accepted)
    (hdecode : decode s.inp.cmd = .error e) : Raised s .illegalCmd 1 (clockEdge s) := by
  rw [clockEdge_accepted haccepted]
  exact runCommand_raised_of_error hdecode

/-- Settles O5: the decoder's refusals, read as slices of the word, and the exception they raise. -/
theorem reservedWordsAreExactlyThese : Obligations.ReservedWordsAreExactlyThese := by
  refine ⟨fun w => ?_, fun s haccepted ⟨e, hdecode⟩ => clockEdge_raised_of_error haccepted hdecode,
    ⟨.opcode 0, by decide⟩, ⟨.opcode 15, by decide⟩⟩
  simp only [ne_eq, extractLsb_15_12_eq_iff, extractLsb_7_0_eq_zero_iff, extractLsb_11_8_eq_zero_iff,
    extractLsb_3_0_eq_zero_iff]
  exact decode_error_iff

/-- Settles O17: the word 0xA012 is refused by the decoder, before a meaning could look at the width, and a reset edge
looks at no word. -/
theorem decodingComesBeforeTheWidth : Obligations.DecodingComesBeforeTheWidth := by
  intro s _ hcmd
  have hreserved : decode s.inp.cmd = .error (.mustBeZero 10) := by
    rw [hcmd]
    decide
  exact ⟨fun hrst hvalid => clockEdge_raised_of_error ⟨hrst, hvalid⟩ hreserved,
    fun hrst => ⟨s.resetEdge, clockEdge_of_rst hrst, rfl, rfl⟩⟩

/-- Settles O23: the three kinds of cycle, one by one. -/
theorem responseIsValidExactlyForCommands : Obligations.ResponseIsValidExactlyForCommands := by
  intro s t h
  obtain ⟨hrst, rfl⟩ | ⟨hrst, hvalid, rfl⟩ | ⟨⟨hrst, hvalid⟩, y, r, rfl, -⟩ := clockEdge_next h
  · simp [hrst, PortOut.quiet]
  · simp [hvalid, PortOut.quiet]
  · simp [hrst, hvalid, Response.ports]

end Sys2Proof.Machine

/-! ### Legal outputs (spec/10_state.md R30, R32, spec/60_exceptions.md R131, R132) -/

namespace Sys2Proof.Machine

theorem PortOut.quiet_legal (c : Config) : (PortOut.quiet c).Legal := by
  simp [PortOut.Legal, PortOut.quiet]

/-- What makes a response legal: no data with an exception, and UnsupportedOp at W = 64 only. -/
theorem Response.ports_legal {c : Config} {r : Response c} (hdata : r.status ≠ .ok → r.data = 0)
    (hwidth : r.status = .unsupportedOp → c.W = 64) : r.ports.Legal := by
  obtain ⟨status, data⟩ := r
  cases status with
  | ok => simp [PortOut.Legal, Response.ports, Status.code]
  | illegalCmd => simpa [PortOut.Legal, Response.ports, Status.code] using hdata
  | unsupportedOp =>
    have hzero : data = 0 := hdata nofun
    simpa [PortOut.Legal, Response.ports, Status.code, hzero] using hwidth

section
variable {s t : State}

/-- The response a command ends with is legal, and the older ones were so already. -/
theorem Ended.safe (h : Ended s t) (hsafe : s.Safe) : t.Safe := by
  obtain ⟨y, r, rfl, hexception, hwidth⟩ := h
  have hlegal : r.ports.Legal := Response.ports_legal (fun hr => (hexception hr).1) hwidth
  refine ⟨hlegal, fun r' hr' => ?_⟩
  obtain hold | hnew := List.mem_append.mp hr'
  · exact hsafe.2 r' hold
  · exact List.mem_singleton.mp hnew ▸ hlegal

/-- Without a response the outputs are quiet, and the responses are those of before. -/
theorem clockEdge_safe (hsafe : s.Safe) (h : clockEdge s = .next t) : t.Safe := by
  obtain ⟨-, rfl⟩ | ⟨-, -, rfl⟩ | ⟨-, hended⟩ := clockEdge_next h
  · exact ⟨PortOut.quiet_legal s.cfg, hsafe.2⟩
  · exact ⟨PortOut.quiet_legal s.cfg, hsafe.2⟩
  · exact hended.safe hsafe

end

/-- Settles O22: no kind of cycle shows or records an illegal response. -/
theorem clockEdgeKeepsOutputsLegal : Obligations.ClockEdgeKeepsOutputsLegal := fun _ _ => clockEdge_safe

/-- Settles O21: a step runs the command of an accepted cycle in a state with the same outputs and responses. -/
theorem stepKeepsOutputsLegal : Obligations.StepKeepsOutputsLegal := by
  intro s t hsafe h
  obtain ⟨_, x, p, rest, -, -, -, hrun⟩ := step_next h
  have hpresent : (s.present (x, p, rest)).Safe := hsafe
  exact (runCommand_ended hrun).safe hpresent

/-- Settles O24: the outputs after reset are quiet, and no response has been given. -/
theorem resetOutputsAreLegal : Obligations.ResetOutputsAreLegal := fun c => ⟨PortOut.quiet_legal c, nofun⟩

/-- Settles O11: each field is as the state after reset is defined. -/
theorem resetShowsNoResponse : Obligations.ResetShowsNoResponse :=
  ⟨fun _ => ⟨rfl, rfl, rfl, rfl⟩, rfl, rfl, rfl⟩

end Sys2Proof.Machine

/-! ### Steps (spec/60_exceptions.md R138, spec/70_reset_and_hazards.md R162, R164, R165) -/

namespace Sys2Proof.Machine

/-! Which cycle a step takes: idle and reset cycles are passed over (R156, R164). -/

section
variable {c : Config} {x : Regs c} {p : PortIn c} {rest : List (PortIn c)}

theorem nextCommand_of_idle (hrst : p.rst = false) (hvalid : p.cmdValid = false) :
    nextCommand x (p :: rest) = nextCommand x rest := by
  simp [nextCommand, hrst, hvalid]

theorem nextCommand_of_rst (hrst : p.rst = true) :
    nextCommand x (p :: rest) = nextCommand (Regs.zero c) rest := if_pos hrst

end

section
variable {s : State}

/-- A step depends on the registers and the stream through the next command alone. -/
theorem step_congr {x : Regs s.cfg} {stream : List (PortIn s.cfg)}
    (h : nextCommand s.x s.stream = nextCommand x stream) : step s = step { s with x := x, stream := stream } := by
  unfold step
  rw [h]
  rfl

theorem step_of_nextCommand {n : Regs s.cfg × PortIn s.cfg × List (PortIn s.cfg)}
    (h : nextCommand s.x s.stream = some n) : step s = clockEdge (s.present n) := by
  unfold step
  rw [h]
  rfl

theorem runCommand_next (s : State) : ∃ t, runCommand s = .next t := by
  cases h : decode s.inp.cmd with
  | ok i => exact runCommand_ok h ▸ exec_next i s
  | error e => exact ⟨_, runCommand_raised_of_error h⟩

theorem step_next_of_accepted {p : PortIn s.cfg} (hp : p ∈ s.stream) (ha : p.accepted) : ∃ t, step s = .next t := by
  cases hn : nextCommand s.x s.stream with
  | none => exact absurd ha (nextCommand_none.mp hn p hp)
  | some n =>
    obtain ⟨x, q, rest⟩ := n
    obtain ⟨_, -, hq, -⟩ := nextCommand_some hn
    rw [step_of_nextCommand hn, clockEdge_accepted (s := s.present (x, q, rest)) hq]
    exact runCommand_next _

theorem step_refused (h : ∀ p ∈ s.stream, ¬ p.accepted) : step s = .refused .endOfRun := by
  unfold step
  rw [nextCommand_none.mpr h]
  rfl

end

/-- Settles O18: idle and reset cycles are passed over on the way to the next command. -/
theorem cyclesBeforeACommandGetNoStep : Obligations.CyclesBeforeACommandGetNoStep := by
  intro s p rest hstream
  refine ⟨fun hrst hvalid => step_congr ?_, fun hrst => ⟨Regs.zero s.cfg, Regs.zero_get s.cfg, step_congr ?_⟩⟩
  · rw [hstream, nextCommand_of_idle hrst hvalid]
  · rw [hstream, nextCommand_of_rst hrst]

/-- Settles O19: the next command is found when there is one, and every word on the ports is answered. -/
theorem stepAnswersWhileCommandsCome : Obligations.StepAnswersWhileCommandsCome := fun _ =>
  ⟨fun ⟨_, hp, ha⟩ => step_next_of_accepted hp ha, step_refused⟩

/-- Settles O20: the accepted cycle a step finds, and the one response its command ends with. -/
theorem stepGivesOneResponseInOrder : Obligations.StepGivesOneResponseInOrder := by
  intro s t h
  obtain ⟨skipped, x, p, rest, hstream, hskipped, ha, hrun⟩ := step_next h
  obtain ⟨y, r, rfl, -⟩ := runCommand_ended hrun
  exact ⟨skipped, p, rest, y, r, hstream, hskipped, ha, rfl⟩

/-- Settles O25: the second step runs on the state the first has left, whose file holds the value written. -/
theorem nextCommandSeesTheWrite : Obligations.NextCommandSeesTheWrite := by
  intro s p q rest i j d hstream hp hq hi hj hd ha
  obtain ⟨v, y, hwrote, hval, hframe⟩ := exec_wrote (s := { s with inp := p, stream := q :: rest }) hd ha
  refine ⟨y, v, hval, hframe, ?_⟩
  intro t
  have hsecond : step t = exec j { t with inp := q, stream := rest } :=
    (step_accepted (s := t) rfl hq).trans (runCommand_ok hj)
  refine ⟨((step_accepted hstream hp).trans (runCommand_ok hi)).trans hwrote, hsecond, ?_⟩
  rintro rfl
  have hread : y[d] = v := hval
  subst hread
  exact hsecond.trans (exec_rd_answered { t with inp := q, stream := rest } d)

/-- Settles O26: both words are refused by the decoder, and raising twice appends the two responses. -/
theorem exceptionsLeaveNoTrace : Obligations.ExceptionsLeaveNoTrace := by
  intro s p q rest e f hstream ⟨hprst, hpvalid⟩ ⟨hqrst, hqvalid⟩ he hf
  let t : State := State.respond { s with inp := p, stream := q :: rest } ⟨.illegalCmd, 0⟩
  have hfirst : step s = .next t := reservedWordRaisesIllegalCommand s p (q :: rest) e hstream hprst hpvalid he
  have hsecond : Raised { t with inp := q, stream := rest } .illegalCmd 1 (step t) :=
    reservedWordRaisesIllegalCommand t q rest f rfl hqrst hqvalid hf
  have hresponses : t.responses ++ [⟨.illegalCmd, 0⟩] = s.responses ++ [⟨.illegalCmd, 0⟩, ⟨.illegalCmd, 0⟩] :=
    List.append_assoc _ _ _
  exact ⟨t, hfirst, hresponses ▸ hsecond⟩

end Sys2Proof.Machine

/-! ### Elaboration, the derived constants and the assembler (spec/00_scope.md R6, R7, R9, spec/30_encoding.md R68) -/

namespace Sys2Proof

/-- The table of R6, row by row. -/
theorem Width.exists_bits_eq_iff {n : Int} : (∃ u : Width, (u.bits : Int) = n) ↔ n = 8 ∨ n = 16 ∨ n = 32 ∨ n = 64 := by
  constructor
  · rintro ⟨u, rfl⟩
    cases u <;> decide
  · rintro (rfl | rfl | rfl | rfl)
    exacts [⟨.w8, rfl⟩, ⟨.w16, rfl⟩, ⟨.w32, rfl⟩, ⟨.w64, rfl⟩]

theorem Width.ofBits?_bits (u : Width) : Width.ofBits? u.bits = some u := by cases u <;> decide

theorem Width.bits_of_ofBits? {n : Int} {u : Width} (h : Width.ofBits? n = some u) : (u.bits : Int) = n := by
  unfold Width.ofBits? at h
  split_ifs at h <;> cases h <;> exact Eq.symm ‹_›

theorem Config.elaborate_of_legal {u : Width} {f : Int} (h : 0 ≤ f ∧ f ≤ (u.bits : Int) - 1) :
    Config.elaborate u.bits f = .ok ⟨u, ⟨f.toNat, by omega⟩⟩ := by
  simp only [Config.elaborate, Width.ofBits?_bits, dif_pos h]

/-- What elaboration gives is the pair it was asked for. -/
theorem Config.pair_of_elaborate {w f : Int} {c : Config} (h : Config.elaborate w f = .ok c) :
    (c.W : Int) = w ∧ (c.F : Int) = f := by
  unfold Config.elaborate at h
  split at h
  next => cases h
  next u hu =>
    split at h
    next hf =>
      cases h
      exact ⟨Width.bits_of_ofBits? hu, Int.toNat_of_nonneg hf.1⟩
    next => cases h

/-- Settles O8: a width of the table with a fraction in range is built, and whatever is built is such a pair. -/
theorem elaborationAcceptsExactlyTheLegalPairs : Obligations.ElaborationAcceptsExactlyTheLegalPairs := by
  intro w f
  refine ⟨fun ⟨htable, hfrac⟩ => ?_, fun hillegal => ?_⟩
  · obtain ⟨u, rfl⟩ := Width.exists_bits_eq_iff.mpr htable
    exact ⟨_, Config.elaborate_of_legal hfrac, rfl, Int.toNat_of_nonneg hfrac.1⟩
  · cases h : Config.elaborate w f with
    | error e => exact ⟨e, rfl⟩
    | ok c =>
      obtain ⟨rfl, rfl⟩ := Config.pair_of_elaborate h
      have := c.F_lt
      exact absurd ⟨Width.exists_bits_eq_iff.mp ⟨c.width, rfl⟩, by omega, by omega⟩ hillegal

theorem Config.one_lt_W (c : Config) : 1 < c.W := by
  unfold Config.W
  cases c.width <;> decide

theorem Config.W_pos (c : Config) : 0 < c.W := c.width.bits_pos

theorem Config.cvtMask_add_one (c : Config) : c.cvtMask + 1 = 2 ^ c.I := Nat.sub_add_cancel Nat.one_le_two_pow

theorem Config.getLsbD_integerMask (c : Config) (k : Nat) :
    c.integerMask.getLsbD k = (decide (c.F ≤ k) && decide (k < c.W - 1)) := by
  have := c.I_add_F
  rw [Config.integerMask, BitVec.getLsbD_ofNat, Nat.testBit_mul_two_pow, Nat.testBit_two_pow_sub_one,
    Bool.eq_iff_iff]
  simp only [Bool.and_eq_true, decide_eq_true_eq]
  omega

theorem Config.ofInt_maxRaw (c : Config) : BitVec.ofInt c.W c.maxRaw = BitVec.intMax c.W :=
  Machine.bits_two_pow_sub_one c.W

theorem Config.ofInt_minRaw (c : Config) : BitVec.ofInt c.W c.minRaw = BitVec.intMin c.W :=
  Machine.bits_neg_two_pow c.W

theorem Width.dataBits_of_eq {w : Width} (h : w.bits = 64) : w.dataBits = 64 := by
  cases w with
  | w64 => rfl
  | _ => cases h

theorem Config.DW_eq (c : Config) : c.DW = if c.W = 64 then 64 else 2 * c.W := by
  split
  next h => exact Width.dataBits_of_eq h
  next h => exact c.width.dataBits_eq h

theorem Config.DW_eq_two_mul {c : Config} (h : c.W ≠ 64) : c.DW = 2 * c.W := c.width.dataBits_eq h

theorem Config.DW_pos (c : Config) : 0 < c.DW := c.width.bits_pos.trans_le c.width.bits_le_dataBits

/-- Settles O9: each constant from its definition, the extremes as the vectors `intMax` and `intMin`. -/
theorem derivedConstantsOfEveryConfiguration : Obligations.DerivedConstantsOfEveryConfiguration := by
  intro c
  have hpos := c.W_pos
  refine ⟨c.I_add_F, c.cvtMask_add_one, c.getLsbD_integerMask, rfl, fun k => ?_, rfl, fun k => ?_,
    Config.DW_eq_two_mul, fun hw => (Width.dataBits_of_eq hw).trans hw.symm⟩
  · rw [c.ofInt_maxRaw, BitVec.getLsbD_intMax, decide_eq_decide]
    omega
  · rw [c.ofInt_minRaw, BitVec.getLsbD_intMin, decide_eq_decide]
    omega

/-! The assembler takes the well-formed lines, and its operand is the immediate where the command uses the bus. -/

section
variable {c : Config} {l : Line}

theorem assemble_of_wellFormed (h : l.wellFormed c = true) : assemble c l = some (encode l.instr, assembleDin c l) :=
  if_pos h

theorem assemble_of_not_wellFormed (h : ¬ l.wellFormed c = true) : assemble c l = none := if_neg h

theorem assemble_isSome (c : Config) (l : Line) : (assemble c l).isSome = l.wellFormed c := by
  cases h : l.wellFormed c with
  | true => rw [assemble_of_wellFormed h, Option.isSome_some]
  | false => rw [assemble_of_not_wellFormed (by simp [h]), Option.isSome_none]

theorem fitsSigned_iff {n : Nat} {z : Int} : fitsSigned n z = true ↔ -2 ^ (n - 1) ≤ z ∧ z ≤ 2 ^ (n - 1) - 1 := by
  simp only [fitsSigned, Bool.and_eq_true, decide_eq_true_eq]

/-- A register's content on the bus with zeros above it is its unsigned value (R68). -/
theorem toNat_setWidth_DW (v : BitVec c.W) : (v.setWidth c.DW).toNat = v.toNat :=
  BitVec.toNat_setWidth_of_le c.width.bits_le_dataBits

theorem extractLsb'_setWidth_DW (v : BitVec c.W) : (v.setWidth c.DW).extractLsb' 0 c.W = v := by
  rw [← BitVec.setWidth_eq_extractLsb' c.width.bits_le_dataBits]
  exact (BitVec.setWidth_setWidth_of_le v c.width.bits_le_dataBits).trans (BitVec.setWidth_eq v)

end

/-- Settles O7: the well-formed lines of each command and the operand the bus carries for them. -/
theorem assemblerDeliversTheOperand : Obligations.AssemblerDeliversTheOperand := by
  intro c
  refine ⟨fun d => ⟨rfl, fun r => ⟨_, rfl, toNat_setWidth_DW _⟩⟩, fun d => ⟨rfl, fun n => ⟨fun hn => ?_, fun hn => ?_⟩⟩,
    fun d => ⟨rfl, fun z => ?_⟩, fun i hldr hcvt hsat => ?_, assemble_isSome c⟩
  · refine ⟨_, assemble_of_wellFormed (fitsSigned_iff.mpr hn), ?_, ?_⟩
    · rw [assembleDin, extractLsb'_setWidth_DW]
      exact Machine.toInt_ofInt_of_range c.W_pos hn.1 hn.2
    · rw [assembleDin, toNat_setWidth_DW]
      exact BitVec.isLt _
  · exact assemble_of_not_wellFormed (mt fitsSigned_iff.mp hn)
  · rw [← c.DW_eq]
    exact ⟨fun hz => ⟨_, assemble_of_wellFormed (fitsSigned_iff.mpr hz),
      Machine.toInt_ofInt_of_range c.DW_pos hz.1 hz.2⟩, fun hz => assemble_of_not_wellFormed (mt fitsSigned_iff.mp hz)⟩
  · cases i with
    | ldr d => exact absurd rfl (hldr d)
    | cvt d => exact absurd rfl (hcvt d)
    | sat d => exact absurd rfl (hsat d)
    | _ => exact ⟨rfl, fun _ => rfl⟩

end Sys2Proof

/-! ### Construction from an integer (spec/40_construct_access.md R77, R78) -/

namespace Sys2Proof.Machine

/-- Integer bits and fraction bits fill the register below its sign bit (R5). -/
theorem two_pow_I_mul_two_pow_F (c : Config) : (2 : Int) ^ c.I * 2 ^ c.F = 2 ^ (c.W - 1) := by
  have := c.I_add_F
  rw [← pow_add]
  congr 1
  omega

/-- The low I bits of a number, placed at bit F: the magnitude CVT constructs (R77). -/
def cvtMagnitude (c : Config) (n : Int) : Int := n % 2 ^ c.I * 2 ^ c.F

section
variable {c : Config} {n : Int}

theorem cvtMagnitude_range (c : Config) (n : Int) : 0 ≤ cvtMagnitude c n ∧ cvtMagnitude c n ≤ 2 ^ (c.W - 1) - 1 := by
  have hnonneg := Int.emod_nonneg n (two_pow_pos c.I).ne'
  have hlt := Int.emod_lt_of_pos n (two_pow_pos c.I)
  refine ⟨mul_nonneg hnonneg (two_pow_pos c.F).le, Int.le_sub_one_of_lt ?_⟩
  rw [← two_pow_I_mul_two_pow_F]
  exact mul_lt_mul_of_pos_right hlt (two_pow_pos c.F)

theorem cvtMagnitude_eq_zero (h : 2 ^ c.I ∣ n) : cvtMagnitude c n = 0 := by
  rw [cvtMagnitude, Int.emod_eq_zero_of_dvd h, zero_mul]

/-- The masked pattern and the masked number are the same, because the mask is shorter than the register. -/
theorem uval_mod_two_pow_I (p : Value c) : ((uval p % 2 ^ c.I : Nat) : Int) = p.toInt % 2 ^ c.I := by
  have hdvd : (2 : Int) ^ c.I ∣ 2 ^ c.W := pow_dvd_pow 2 (by have := c.I_add_F; omega)
  rw [← Int.emod_emod_of_dvd p.toInt hdvd, toInt_emod]
  simp [uval]

/-- The procedure of R77 in numbers. -/
theorem cvtValue_eq_ofInt (p : Value c) : cvtValue c p =
    BitVec.ofInt c.W (if p.toInt < 0 then -cvtMagnitude c p.toInt else cvtMagnitude c p.toInt) := by
  have hmagnitude : ((uval p % 2 ^ c.I * 2 ^ c.F : Nat) : Int) = cvtMagnitude c p.toInt := by
    rw [cvtMagnitude, ← uval_mod_two_pow_I]
    push_cast
    rfl
  rw [← hmagnitude]
  rfl

theorem toInt_cvtValue (p : Value c) : (cvtValue c p).toInt =
    if p.toInt < 0 then -cvtMagnitude c p.toInt else cvtMagnitude c p.toInt := by
  obtain ⟨hlow, hhigh⟩ := cvtMagnitude_range c p.toInt
  have hpos := c.W_pos
  rw [cvtValue_eq_ofInt]
  apply toInt_ofInt_of_range hpos <;> split <;> omega

theorem cvtValue_eq_zero {p : Value c} (h : 2 ^ c.I ∣ p.toInt) : cvtValue c p = 0 := by
  rw [cvtValue_eq_ofInt, cvtMagnitude_eq_zero h, neg_zero, ite_self]
  exact bits_zero c.W

end

section
variable {s : State} {d : RegNum}

theorem exec_cvt_wrote : Wrote s d (cvtValue s.cfg (s.inp.din.extractLsb' 0 s.cfg.W)) (exec (.cvt d) s) :=
  dinLow_eq_extractLsb' s ▸ complete_wrote s d (cvtValue s.cfg (dinLow s))

theorem exec_cvt_wrote_zero (h : 2 ^ s.cfg.I ∣ (s.inp.din.extractLsb' 0 s.cfg.W).toInt) :
    Wrote s d 0 (exec (.cvt d) s) :=
  cvtValue_eq_zero h ▸ exec_cvt_wrote

end

/-- Settles O35: the value of R77's procedure, and that neither sign of the magnitude is lost in the narrowing. -/
theorem cvtMasksShiftsAndNegates : Obligations.CvtMasksShiftsAndNegates := by
  intro s d
  refine ⟨decode_ofNat (packWord_eq_ofNat 0x3 d 0 0), _, exec_cvt_wrote, ?_, fun h => ?_, fun h => ?_⟩
  · rw [cvtValue_eq_ofInt, cvtMagnitude, ← uval_mod_two_pow_I]
    rfl
  · rw [toInt_cvtValue, if_neg h.not_gt, cvtMagnitude]
  · rw [toInt_cvtValue, if_pos h, cvtMagnitude]

/-- Settles O36: the mask keeps a number below 2^I. -/
theorem cvtIsExactInRange : Obligations.CvtIsExactInRange := by
  intro s d hmin hmax
  refine ⟨_, exec_cvt_wrote, ?_⟩
  rw [toInt_cvtValue, if_neg hmin.not_gt, cvtMagnitude, Int.emod_eq_of_lt hmin (by omega)]

/-- Settles O37: in each case the number is a multiple of 2^I. -/
theorem cvtTruncatesToZero : Obligations.CvtTruncatesToZero := by
  intro s d
  refine ⟨fun hlow => ?_, fun hnone => ?_, fun hmin => ?_⟩ <;> refine exec_cvt_wrote_zero ?_
  · exact Int.dvd_of_emod_eq_zero hlow
  · simp [hnone]
  · rw [hmin, dvd_neg, ← two_pow_I_mul_two_pow_F]
    exact dvd_mul_right _ _

/-- Two magnitudes are equal when the numbers agree modulo 2^I, that is when their difference is a multiple of it. -/
theorem cvtMagnitude_neg_eq_iff {c : Config} {n : Int} :
    cvtMagnitude c n = cvtMagnitude c (-n) ↔ (2 : Int) ^ c.I ∣ 2 * n := by
  have hcancel : cvtMagnitude c n = cvtMagnitude c (-n) ↔ -n ≡ n [ZMOD 2 ^ c.I] := by
    rw [cvtMagnitude, cvtMagnitude, mul_left_inj' (two_pow_pos c.F).ne', eq_comm, Int.ModEq]
  rw [hcancel, Int.modEq_iff_dvd, sub_neg_eq_add, two_mul]

/-- Settles O38: both readings negate a magnitude, and the narrowing keeps different ones apart. -/
theorem cvtReadingsAgreeExactlyWhen : Obligations.CvtReadingsAgreeExactlyWhen := by
  intro s d n hneg
  refine ⟨_, exec_cvt_wrote, ?_⟩
  have hpos := s.cfg.W_pos
  obtain ⟨hlow, hhigh⟩ := cvtMagnitude_range s.cfg (-n)
  have hother : (BitVec.ofInt s.cfg.W (-cvtMagnitude s.cfg (-n))).toInt = -cvtMagnitude s.cfg (-n) :=
    toInt_ofInt_of_range hpos (by omega) (by omega)
  change _ = BitVec.ofInt s.cfg.W (-cvtMagnitude s.cfg (-n)) ↔ _
  rw [← BitVec.toInt_inj, hother, toInt_cvtValue, if_pos hneg, neg_inj, cvtMagnitude_neg_eq_iff]

end Sys2Proof.Machine

/-! ### Laws of addition and subtraction (spec/42_add_sub.md R98, R99) -/

namespace Sys2Proof.Machine

/-- The state a command leaves that wrote `v` to `x[d]`. -/
def State.written (s : State) (d : RegNum) (v : Value s.cfg) : State := (s.setReg d v).respond (Response.ok v)

@[simp] theorem State.reg_written (s : State) (d j : RegNum) (v : Value s.cfg) :
    (s.written d v).reg j = if j = d then v else s.reg j := State.reg_setReg s d j v

section
variable (s : State) (d a b : RegNum)

theorem exec_add_next : exec (.add d a b) s = .next (s.written d (s.reg a + s.reg b)) :=
  congrArg (complete s d) (bits_uval_add (s.reg a) (s.reg b))

theorem exec_sub_next : exec (.sub d a b) s = .next (s.written d (s.reg a - s.reg b)) :=
  congrArg (complete s d) (bits_uval_sub (s.reg a) (s.reg b))

end

/-- Settles O45: the second command reads the first one's result and the second operand as it was. -/
theorem subUndoesAdd : Obligations.SubUndoesAdd := by
  intro s d e a b hdb
  refine ⟨⟨_, _, exec_add_next s d a b, exec_sub_next _ e d b, ?_⟩,
    ⟨_, _, exec_sub_next s d a b, exec_add_next _ e d b, ?_⟩⟩
  · simp only [State.reg_written, hdb.symm, if_true, if_false]
    exact congrArg BitVec.toNat (BitVec.add_sub_cancel _ _)
  · simp only [State.reg_written, hdb.symm, if_true, if_false]
    exact congrArg BitVec.toNat (BitVec.sub_add_cancel _ _)

/-- Settles O46: the sum of the vectors is commutative and associative. -/
theorem addIsCommutativeAndAssociative : Obligations.AddIsCommutativeAndAssociative := by
  refine ⟨fun s d a b => ?_, fun s d e a b c hdc hea => ?_⟩
  · rw [exec_add_next, exec_add_next, BitVec.add_comm]
  · refine ⟨_, _, _, _, exec_add_next s d a b, exec_add_next _ d d c, exec_add_next s e b c, exec_add_next _ e a e, ?_⟩
    simp only [State.reg_written, hdc.symm, hea.symm, if_true, if_false]
    exact congrArg BitVec.toNat (BitVec.add_assoc _ _ _)

/-- Settles O47: ADD and SUB are the operations on vectors, and these have the laws. -/
theorem addSubCornerCases : Obligations.AddSubCornerCases := by
  intro s d a b
  refine ⟨fun hb => ⟨?_, ?_⟩, ?_, fun ha hb => ?_, ?_⟩
  · simpa [hb] using exec_add_wrote s d a b
  · simpa [hb] using exec_sub_wrote s d a b
  · simpa using exec_sub_wrote s d a a
  · simpa [ha, hb] using exec_sub_wrote s d a b
  · rw [two_mul, ofInt_toInt_add]
    exact exec_add_wrote s d a a

end Sys2Proof.Machine

/-! ### Laws of multiplication (spec/43_multiply.md R106, R109, R110) -/

namespace Sys2Proof.Machine

/-! The clamp by its ends, its sign and its zero (R122). -/

section
variable {n : Nat} {z : Int}

theorem clamp_eq_max_min (n : Nat) (z : Int) : clamp n z = max (-2 ^ (n - 1)) (min z (2 ^ (n - 1) - 1)) := by
  have := two_pow_pos (n - 1)
  obtain habove | hmax := lt_or_ge (2 ^ (n - 1) - 1) z
  · rw [clamp_of_above habove]
    omega
  obtain hbelow | hmin := lt_or_ge z (-2 ^ (n - 1))
  · rw [clamp_of_below hbelow]
    omega
  · rw [clamp_of_range hmin hmax]
    omega

theorem clamp_neg_iff : clamp n z < 0 ↔ z < 0 := by
  have := two_pow_pos (n - 1)
  rw [clamp_eq_max_min]
  omega

/-- A range of more than one bit holds a positive number, so only zero is clamped to zero. -/
theorem clamp_eq_zero_iff (hn : 1 < n) : clamp n z = 0 ↔ z = 0 := by
  have hone : (2 : Int) ^ 1 ≤ 2 ^ (n - 1) := pow_le_pow_right₀ (by decide) (by omega)
  rw [clamp_eq_max_min]
  omega

end

/-! The floor of a quotient by a power of two (R11). -/

section
variable {z : Int} {k : Nat}

theorem asr_mul_two_pow (z : Int) (k : Nat) : asr (z * 2 ^ k) k = z := Int.mul_ediv_cancel z (two_pow_pos k).ne'

theorem asr_neg_iff : asr z k < 0 ↔ z < 0 := by
  rw [asr, Int.ediv_lt_iff_lt_mul (two_pow_pos k), zero_mul]

theorem asr_eq_zero_iff : asr z k = 0 ↔ 0 ≤ z ∧ z < 2 ^ k := by
  have hnonneg : 0 ≤ asr z k ↔ 0 ≤ z := by simpa using asr_neg_iff.not
  have hlt : asr z k < 1 ↔ z < 2 ^ k := by rw [asr, Int.ediv_lt_iff_lt_mul (two_pow_pos k), one_mul]
  rw [← hnonneg, ← hlt]
  omega

/-- Dividing does not leave an interval about zero. -/
theorem asr_range {m : Int} (hlow : -m ≤ z) (hhigh : z ≤ m) : -m ≤ asr z k ∧ asr z k ≤ m := by
  have hm : m ≤ m * 2 ^ k := le_mul_of_one_le_right (by omega) (two_pow_pos k)
  constructor
  · rw [asr, Int.le_ediv_iff_mul_le (two_pow_pos k), neg_mul]
    omega
  · rw [asr]
    exact Int.ediv_le_of_le_mul (two_pow_pos k) (hhigh.trans hm)

end

section
variable {s : State} {d a b : RegNum}

theorem exec_muls_wrote_of_range (hw : s.cfg.W ≠ 64) (hmin : -2 ^ (s.cfg.W - 1) ≤ scaledProduct s a b)
    (hmax : scaledProduct s a b ≤ 2 ^ (s.cfg.W - 1) - 1) :
    Wrote s d (BitVec.ofInt s.cfg.W (scaledProduct s a b)) (exec (.muls d a b) s) := by
  have hwrote := exec_muls_wrote (d := d) (a := a) (b := b) hw
  rwa [clamp_of_range hmin hmax] at hwrote

theorem exec_muls_wrote_of_above (hw : s.cfg.W ≠ 64) (habove : 2 ^ (s.cfg.W - 1) - 1 < scaledProduct s a b) :
    Wrote s d (BitVec.intMax s.cfg.W) (exec (.muls d a b) s) := by
  have hwrote := exec_muls_wrote (d := d) (a := a) (b := b) hw
  rw [clamp_of_above habove] at hwrote
  exact bits_two_pow_sub_one s.cfg.W ▸ hwrote

theorem scaledProduct_comm (s : State) (a b : RegNum) : scaledProduct s a b = scaledProduct s b a := by
  rw [scaledProduct, scaledProduct, mul_comm]

/-! The sources count through their shifted product alone. -/

theorem exec_muls_congr {a' b' : RegNum} (h : scaledProduct s a b = scaledProduct s a' b') :
    exec (.muls d a b) s = exec (.muls d a' b') s :=
  congrArg (fun q => withWider s (complete s d (bits s.cfg.W (clamp s.cfg.W q)))) h

theorem exec_mulw_congr {a' b' : RegNum} (h : scaledProduct s a b = scaledProduct s a' b') :
    exec (.mulw d a b) s = exec (.mulw d a' b') s :=
  congrArg (fun q => withWider s (complete s d (bits s.cfg.W q))) h

theorem scaledProduct_eq_of_mul {q : Int} (h : s.x[a].toInt * s.x[b].toInt = q * 2 ^ s.cfg.F) :
    scaledProduct s a b = q := by
  rw [scaledProduct_eq_fdiv, h, ← asr_eq_fdiv, asr_mul_two_pow]

/-- Where the shifted product is a register's own content, both commands write that content. -/
theorem mul_wrote_of_scaledProduct_eq_toInt {v : Value s.cfg} (hw : s.cfg.W ≠ 64)
    (h : scaledProduct s a b = v.toInt) : Wrote s d v (exec (.muls d a b) s) ∧ Wrote s d v (exec (.mulw d a b) s) := by
  obtain ⟨hmin, hmax⟩ := toInt_range s.cfg.W_pos v
  have hv : BitVec.ofInt s.cfg.W (scaledProduct s a b) = v := by rw [h, ofInt_toInt]
  exact ⟨hv ▸ exec_muls_wrote_of_range hw (h ▸ hmin) (h ▸ hmax), hv ▸ exec_mulw_wrote hw⟩

end

/-- Settles O50: the sign-extended product is exact, and the clamp is the two comparisons with the ends of the range. -/
theorem mulsRefinesTheWideDatapath : Obligations.MulsRefinesTheWideDatapath := by
  intro s d a b hw p q
  have hp : p.toInt = s.x[a].toInt * s.x[b].toInt := toInt_signExtend_mul s.cfg.W_pos _ _
  have hq : q = scaledProduct s a b := (toInt_sshiftRight_eq_asr p s.cfg.F).trans (congrArg (asr · s.cfg.F) hp)
  refine ⟨hp, hq.trans scaledProduct_eq_fdiv, ?_⟩
  rw [← clamp_eq_max_min, hq]
  exact exec_muls_wrote hw

/-- A clamped number agrees with the number modulo 2^N in range, and out of range only by coincidence. -/
theorem clamp_emod_eq_iff {n : Nat} {z : Int} (hn : 0 < n) : clamp n z % 2 ^ n = z % 2 ^ n ↔
    (-2 ^ (n - 1) ≤ z ∧ z ≤ 2 ^ (n - 1) - 1) ∨ (2 ^ (n - 1) - 1 < z ∧ z % 2 ^ n = 2 ^ (n - 1) - 1) ∨
      (z < -2 ^ (n - 1) ∧ z % 2 ^ n = 2 ^ (n - 1)) := by
  have hhalf := two_pow_pred hn
  have hpos := two_pow_pos (n - 1)
  obtain habove | hmax := lt_or_ge (2 ^ (n - 1) - 1) z
  · have hmod : ((2 : Int) ^ (n - 1) - 1) % 2 ^ n = 2 ^ (n - 1) - 1 := Int.emod_eq_of_lt (by omega) (by omega)
    rw [clamp_of_above habove, hmod]
    omega
  obtain hbelow | hmin := lt_or_ge z (-2 ^ (n - 1))
  · have hmod : (-(2 : Int) ^ (n - 1)) % 2 ^ n = 2 ^ (n - 1) := by
      rw [← Int.add_emod_right, Int.emod_eq_of_lt] <;> omega
    rw [clamp_of_below hbelow, hmod]
    omega
  · rw [clamp_of_range hmin hmax]
    exact iff_of_true rfl (.inl ⟨hmin, hmax⟩)

/-- Settles O51: the number written is the floor of the product in units of 2^-F. -/
theorem multiplicationRoundsDown : Obligations.MultiplicationRoundsDown := by
  intro s d a b hw hmin hmax
  rw [← scaledProduct_eq_fdiv] at hmin hmax
  refine ⟨_, exec_muls_wrote_of_range hw hmin hmax, exec_mulw_wrote hw, ?_⟩
  have hv : represents (c := s.cfg) (BitVec.ofInt s.cfg.W (scaledProduct s a b)) =
      (⌊((s.x[a].toInt * s.x[b].toInt : Int) : ℚ) / 2 ^ s.cfg.F⌋ : ℚ) / 2 ^ s.cfg.F := by
    rw [represents, toInt_ofInt_of_range s.cfg.W_pos hmin hmax, ← asr_eq_floor]
    rfl
  have hproduct : represents s.x[a] * represents s.x[b] =
      ((s.x[a].toInt * s.x[b].toInt : Int) : ℚ) / 2 ^ s.cfg.F / 2 ^ s.cfg.F := by
    simp only [represents]
    push_cast
    ring
  rw [hv, hproduct, ← add_div]
  constructor
  · gcongr
    exact Int.floor_le _
  · gcongr
    exact Int.lt_floor_add_one _

/-- Settles O52: MULS writes the clamp, and the clamp agrees with the number modulo 2^W in the cases named. -/
theorem policiesAgreeExactlyWhen : Obligations.PoliciesAgreeExactlyWhen := by
  intro s d a b hw
  refine ⟨_, _, exec_muls_wrote hw, exec_mulw_wrote hw, ?_⟩
  rw [← scaledProduct_eq_fdiv, ofInt_eq_iff]
  exact clamp_emod_eq_iff s.cfg.W_pos

/-- Settles O53: the product is commutative, and it is zero, or the other operand in units of 2^F. -/
theorem multiplicationUnits : Obligations.MultiplicationUnits := by
  refine ⟨fun s d a b => ⟨?_, ?_⟩, fun s d a b hw hb => ?_, fun s d a b hw hI hb => ?_⟩
  · exact exec_muls_congr (scaledProduct_comm s a b)
  · exact exec_mulw_congr (scaledProduct_comm s a b)
  · refine mul_wrote_of_scaledProduct_eq_toInt hw (scaledProduct_eq_of_mul ?_)
    simp [hb]
  · refine mul_wrote_of_scaledProduct_eq_toInt hw (scaledProduct_eq_of_mul ?_)
    have hfits : (2 : Int) ^ s.cfg.F * 2 ≤ 2 ^ (s.cfg.W - 1) := by
      rw [← pow_succ]
      exact pow_le_pow_right₀ (by decide) (by have := s.cfg.I_add_F; omega)
    have hunit : s.x[b] = BitVec.ofInt s.cfg.W (2 ^ s.cfg.F) := hb.trans (by simp [← BitVec.ofInt_natCast])
    have := two_pow_pos s.cfg.F
    rw [hunit, toInt_ofInt_of_range s.cfg.W_pos (by omega) (by omega)]

/-- Settles O54: neither the shift nor the clamp changes the sign. -/
theorem mulsKeepsTheSign : Obligations.MulsKeepsTheSign := by
  intro s d a b hw
  refine ⟨_, exec_muls_wrote hw, ?_, ?_⟩
  · rw [toInt_ofInt_clamp s.cfg.W_pos, clamp_neg_iff]
    exact asr_neg_iff
  · have hzero : (0 : Value s.cfg).toInt = 0 := BitVec.toInt_zero
    rw [← BitVec.toInt_inj, toInt_ofInt_clamp s.cfg.W_pos, hzero, clamp_eq_zero_iff s.cfg.one_lt_W]
    exact asr_eq_zero_iff

/-- Narrowing a power of two: bit `n - 1` alone is the least vector, and a higher bit is lost. -/
theorem ofInt_two_pow_pred {n : Nat} (hn : 0 < n) : BitVec.ofInt n (2 ^ (n - 1)) = BitVec.intMin n := by
  have := two_pow_pred hn
  rw [← bits_neg_two_pow, bits, ofInt_eq_iff, ← Int.add_emod_right (-2 ^ (n - 1))]
  congr 1
  omega

theorem ofInt_two_pow_of_le {n k : Nat} (h : n ≤ k) : BitVec.ofInt n (2 ^ k) = 0 := by
  rw [← bits_zero, bits, ofInt_eq_iff, Int.zero_emod]
  exact Int.emod_eq_zero_of_dvd (pow_dvd_pow 2 h)

/-- A power of two from 2^(W-1) up is above the range. -/
theorem exec_muls_wrote_intMax {s : State} {d a b : RegNum} {k : Nat} (hw : s.cfg.W ≠ 64) (hk : s.cfg.W - 1 ≤ k)
    (h : scaledProduct s a b = 2 ^ k) : Wrote s d (BitVec.intMax s.cfg.W) (exec (.muls d a b) s) := by
  refine exec_muls_wrote_of_above hw ?_
  rw [h]
  exact Int.sub_one_lt_of_le (pow_le_pow_right₀ (by decide) hk)

/-- Settles O55: both shifted products are powers of two from 2^(W-1) up. -/
theorem minimumTimesMinimum : Obligations.MinimumTimesMinimum := by
  intro s d a b hw ha
  have hpos := s.cfg.W_pos
  have hF := s.cfg.F_lt
  refine ⟨fun hb => ?_, fun hb => ?_⟩
  · have hq : scaledProduct s a b = 2 ^ (2 * s.cfg.W - 2 - s.cfg.F) := by
      apply scaledProduct_eq_of_mul
      rw [ha, hb, neg_mul_neg, ← pow_add, ← pow_add]
      congr 1
      omega
    have hwrote := exec_mulw_wrote (d := d) (a := a) (b := b) hw
    rw [hq] at hwrote
    refine ⟨exec_muls_wrote_intMax hw (by omega) hq, fun hroom => ?_, fun htop => ?_⟩
    · have hexp : s.cfg.W ≤ 2 * s.cfg.W - 2 - s.cfg.F := by omega
      exact ofInt_two_pow_of_le hexp ▸ hwrote
    · have hexp : 2 * s.cfg.W - 2 - s.cfg.F = s.cfg.W - 1 := by omega
      exact ofInt_two_pow_pred hpos ▸ hexp ▸ hwrote
  · have hq : scaledProduct s a b = 2 ^ (s.cfg.W - 1) := by
      apply scaledProduct_eq_of_mul
      rw [ha, hb, neg_mul_neg]
    have hwrote := exec_mulw_wrote (d := d) (a := a) (b := b) hw
    rw [hq, ofInt_two_pow_pred hpos] at hwrote
    exact ⟨exec_muls_wrote_intMax hw le_rfl hq, hwrote⟩

end Sys2Proof.Machine

/-! ### Laws of saturation (spec/44_saturate.md R124) -/

namespace Sys2Proof.Machine

/-- Settles O58: in range the clamp is the identity, and narrowing the bus's number is taking its low bits. -/
theorem satIsLdrInRange : Obligations.SatIsLdrInRange := by
  intro s d hw hmin hmax
  have hlow : s.inp.din.extractLsb' 0 s.cfg.W = BitVec.ofInt s.cfg.W (clamp s.cfg.W s.inp.din.toInt) := by
    rw [clamp_of_range hmin hmax, extractLsb'_eq_ofInt_asr (by simpa using s.cfg.width.bits_le_dataBits)]
    simp [asr]
  exact ⟨_, exec_sat_wrote hw, hlow ▸ exec_ldr_wrote s d⟩

/-- The shifted product is no longer than the product, which two registers can hold (R106). -/
theorem scaledProduct_range (s : State) (a b : RegNum) :
    -2 ^ (2 * s.cfg.W - 1) ≤ scaledProduct s a b ∧ scaledProduct s a b ≤ 2 ^ (2 * s.cfg.W - 1) - 1 := by
  have hpos := s.cfg.W_pos
  obtain ⟨hlow, hhigh⟩ := mul_range hpos s.x[a] s.x[b]
  obtain ⟨hmin, hmax⟩ := asr_range (k := s.cfg.F) hlow hhigh
  have hhalf : (2 : Int) ^ (2 * s.cfg.W - 1) = 2 ^ (s.cfg.W - 1) * 2 ^ (s.cfg.W - 1) * 2 := by
    rw [← pow_add, ← pow_succ]
    congr 1
    omega
  have := mul_pos (two_pow_pos (s.cfg.W - 1)) (two_pow_pos (s.cfg.W - 1))
  have hasr : scaledProduct s a b = asr (s.x[a].toInt * s.x[b].toInt) s.cfg.F := rfl
  omega

/-- Settles O59: the shifted product fits the bus, which holds two registers. -/
theorem mulsIsSatOfTheProduct : Obligations.MulsIsSatOfTheProduct := by
  intro s d a b inp hw hdin
  refine ⟨_, exec_muls_wrote hw, ?_⟩
  obtain ⟨hmin, hmax⟩ := scaledProduct_range s a b
  have hbus : inp.din.toInt = scaledProduct s a b := by
    rw [hdin, ← scaledProduct_eq_fdiv]
    apply toInt_ofInt_of_range s.cfg.DW_pos <;> rwa [Config.DW_eq_two_mul hw]
  exact hbus ▸ exec_sat_wrote (s := { s with inp := inp }) hw

end Sys2Proof.Machine
